-- ==== Sys2Proof/Word.lean ====
section
/-! DEFINITION. The widths the spec gives its values, and the five-fold tuples it indexes by sensor. -/

namespace Sys2Proof

/-- One byte of the register bus (20_memory R50). -/
abbrev Byte := BitVec 8

/-- A channel tick, in 0..4095 (10_state R23). -/
abbrev Tick := BitVec 12

/-- A raw sensor reading or a bound of a calibration range, in 0..1023 (10_state R26, 42_line_sensor R134). -/
abbrev Reading := BitVec 10

/-- A 16-bit field of a command word, or a 16-bit result value (30_encoding R70, R74). -/
abbrev Half := BitVec 16

/-- A command word `W[47:0]` (30_encoding R70). -/
abbrev Command := BitVec 48

/-- Five like values, one for each sensor 0..4 or each result port r0..r4. -/
structure Five (α : Type) where
  v0 : α
  v1 : α
  v2 : α
  v3 : α
  v4 : α
deriving DecidableEq, Repr

namespace Five

/-- The value of sensor `i`. -/
def get {α : Type} (f : Five α) : Fin 5 → α
  | 0 => f.v0
  | 1 => f.v1
  | 2 => f.v2
  | 3 => f.v3
  | 4 => f.v4

/-- The same value five times. -/
def all {α : Type} (a : α) : Five α := ⟨a, a, a, a, a⟩

/-- The tuple whose value at sensor `i` is `g i`. -/
def ofFn {α : Type} (g : Fin 5 → α) : Five α := ⟨g 0, g 1, g 2, g 3, g 4⟩

/-- `g` at each sensor. -/
def map {α β : Type} (g : α → β) (f : Five α) : Five β := ⟨g f.v0, g f.v1, g f.v2, g f.v3, g f.v4⟩

/-- `g` at each sensor of two tuples. -/
def zipWith {α β γ : Type} (g : α → β → γ) (f : Five α) (h : Five β) : Five γ :=
  ⟨g f.v0 h.v0, g f.v1 h.v1, g f.v2 h.v2, g f.v3 h.v3, g f.v4 h.v4⟩

end Five

end Sys2Proof
end

