-- ==== Sys2Proof/Syntax.lean ====
section
/-! DEFINITION. The commands of the block: one constructor for each row of spec/opcode_table.json. -/

namespace Sys2Proof

/-- The five directions of DRIVE and DRIVEFOR (30_encoding R82). -/
inductive Dir where
  | fwd
  | back
  | left
  | right
  | stop
deriving DecidableEq, Repr

/-- The three motor selections of STOPMOT (30_encoding R83). -/
inductive Which where
  | m1
  | m2
  | both
deriving DecidableEq, Repr

/-- An operand field that holds the code of an enumeration: a code with a name, or a code outside the enumeration's domain
(which the command's rule answers with IGNORED). -/
inductive Coded (α : Type) where
  | named (a : α)
  | outside (code : Byte)
deriving DecidableEq, Repr

/-- A command (30_encoding R73). Operands are the fields' contents; each command's rule reads them as R72 says. -/
inductive Instr where
  | init
  | setch (ch : Byte) (on off : Tick)
  | srvang (ch : Byte) (deg : Half)
  | srvpls (ch : Byte) (us : Half)
  | setled (id : Byte) (level : Half)
  | runmot (id : Byte) (speed : Half)
  | drive (dir : Coded Dir) (speed : Half)
  | drivefor (dir : Coded Dir) (speed : Half) (seconds : Half)
  | stopmot (which : Coded Which)
  | rdraw
  | calib
  | getmax
  | getmin
  | rdcal
  | rdpos
deriving DecidableEq, Repr

/-- The command's name in spec/opcode_table.json. -/
def Instr.mnemonic : Instr → String
  | .init => "INIT"
  | .setch _ _ _ => "SETCH"
  | .srvang _ _ => "SRVANG"
  | .srvpls _ _ => "SRVPLS"
  | .setled _ _ => "SETLED"
  | .runmot _ _ => "RUNMOT"
  | .drive _ _ => "DRIVE"
  | .drivefor _ _ _ => "DRIVEFOR"
  | .stopmot _ => "STOPMOT"
  | .rdraw => "RDRAW"
  | .calib => "CALIB"
  | .getmax => "GETMAX"
  | .getmin => "GETMIN"
  | .rdcal => "RDCAL"
  | .rdpos => "RDPOS"

end Sys2Proof
end

