-- ==== Sys2Proof/WellFormed.lean ====
section
/-! DEFINITION. Which commands are well formed: a code that has a name is written by its name. Widths are in the types. -/

namespace Sys2Proof

/-- `dir` codes 0..4 have names (30_encoding R82). -/
def Coded.dirWF : Coded Dir → Bool
  | .named _ => true
  | .outside code => decide (5 ≤ code.toNat)

/-- `which` codes 1..3 have names (30_encoding R83). -/
def Coded.whichWF : Coded Which → Bool
  | .named _ => true
  | .outside code => decide (code.toNat = 0 ∨ 4 ≤ code.toNat)

/-- A command that some word stands for. -/
def Instr.wellFormed : Instr → Bool
  | .init => true
  | .setch _ _ _ => true
  | .srvang _ _ => true
  | .srvpls _ _ => true
  | .setled _ _ => true
  | .runmot _ _ => true
  | .drive dir _ => dir.dirWF
  | .drivefor dir _ _ => dir.dirWF
  | .stopmot which => which.whichWF
  | .rdraw => true
  | .calib => true
  | .getmax => true
  | .getmin => true
  | .rdcal => true
  | .rdpos => true

end Sys2Proof
end

