-- ==== Sys2Proof/Decode.lean ====
section
/-! DEFINITION. From a 48-bit command word to a command, total and rejecting by name; then back; then the opcode map as
(match, mask) rows. -/

namespace Sys2Proof

/-- Why a word is illegal (30_encoding R76). -/
inductive DecodeError where
  /-- `op` is not in the opcode map (R73, R78 check 1). -/
  | undefinedOpcode
  /-- A field the format does not use is not zero (R77, R78 check 2). -/
  | reservedField
deriving DecidableEq, Repr

/-- `op = W[47:40]` (R70). -/
def Command.op (w : Command) : Byte := w.extractLsb' 40 8

/-- `a = W[39:32]` (R70). -/
def Command.a (w : Command) : Byte := w.extractLsb' 32 8

/-- `b = W[31:16]` (R70). -/
def Command.b (w : Command) : Half := w.extractLsb' 16 16

/-- `c = W[15:0]` (R70). -/
def Command.c (w : Command) : Half := w.extractLsb' 0 16

/-- The low twelve bits of a field: a tick of format T (R71). -/
def tickField (f : Half) : Tick := f.extractLsb' 0 12

/-- The high four bits of a field: reserved in format T (R71). -/
def tickReserved (f : Half) : BitVec 4 := f.extractLsb' 12 4

/-- The direction codes (R82). -/
def dirOfCode (code : Byte) : Coded Dir :=
  match code.toNat with
  | 0 => .named .fwd
  | 1 => .named .back
  | 2 => .named .left
  | 3 => .named .right
  | 4 => .named .stop
  | _ => .outside code

/-- The code of a direction operand (R82). -/
def dirCode : Coded Dir → Byte
  | .named .fwd => 0
  | .named .back => 1
  | .named .left => 2
  | .named .right => 3
  | .named .stop => 4
  | .outside code => code

/-- The motor selection codes (R83). -/
def whichOfCode (code : Byte) : Coded Which :=
  match code.toNat with
  | 1 => .named .m1
  | 2 => .named .m2
  | 3 => .named .both
  | _ => .outside code

/-- The code of a motor selection operand (R83). -/
def whichCode : Coded Which → Byte
  | .named .m1 => 1
  | .named .m2 => 2
  | .named .both => 3
  | .outside code => code

/-- The word means `i` if the format's reserved fields are zero. -/
def accept (reservedZero : Bool) (i : Instr) : Except DecodeError Instr :=
  if reservedZero then .ok i else .error .reservedField

/-- Format N uses no field (R71). -/
def reservedN (w : Command) : Bool := w.a == 0 && w.b == 0 && w.c == 0

/-- Format A uses `a` (R71). -/
def reservedA (w : Command) : Bool := w.b == 0 && w.c == 0

/-- Format AB uses `a` and `b` (R71). -/
def reservedAB (w : Command) : Bool := w.c == 0

/-- Format T uses `a`, `b[11:0]` and `c[11:0]` (R71). -/
def reservedT (w : Command) : Bool := tickReserved w.b == 0 && tickReserved w.c == 0

/-- The command a word stands for (R71, R73, R76, R77, R78 checks 1 and 2). It reads nothing but the word (R79). -/
def decode (w : Command) : Except DecodeError Instr :=
  match w.op.toNat with
  | 0x01 => accept (reservedN w) .init
  | 0x02 => accept (reservedT w) (.setch w.a (tickField w.b) (tickField w.c))
  | 0x03 => accept (reservedAB w) (.srvang w.a w.b)
  | 0x04 => accept (reservedAB w) (.srvpls w.a w.b)
  | 0x05 => accept (reservedAB w) (.setled w.a w.b)
  | 0x06 => accept (reservedAB w) (.runmot w.a w.b)
  | 0x07 => accept (reservedAB w) (.drive (dirOfCode w.a) w.b)
  | 0x08 => accept true (.drivefor (dirOfCode w.a) w.b w.c)
  | 0x09 => accept (reservedA w) (.stopmot (whichOfCode w.a))
  | 0x0A => accept (reservedN w) .rdraw
  | 0x0B => accept (reservedN w) .calib
  | 0x0C => accept (reservedN w) .getmax
  | 0x0D => accept (reservedN w) .getmin
  | 0x0E => accept (reservedN w) .rdcal
  | 0x0F => accept (reservedN w) .rdpos
  | _ => .error .undefinedOpcode

/-- The instruction the decoder reads from the table's word of `nbits` bits; bits above `nbits` are zero. A command word has
48 bits and no byte order (20_memory R55), so the table's numbering of the bits is the word's own. -/
def decodeTableWord (nbits w : Nat) : Option Instr :=
  if nbits ≤ 48 ∧ w < 2 ^ nbits then
    match decode (BitVec.ofNat 48 w) with
    | .ok i => some i
    | .error _ => none
  else none

/-- The word with the given fields (R70). -/
def packWord (op a : Byte) (b c : Half) : Command := op ++ a ++ b ++ c

/-- A tick in a field of format T, the reserved bits zero (R71). -/
def fieldOfTick (t : Tick) : Half := 0#4 ++ t

/-- The word of a command: `op`, each operand in its field, zero in every reserved field (R70, R71, R73, R80). -/
def encode : Instr → Command
  | .init => packWord 0x01 0 0 0
  | .setch ch on off => packWord 0x02 ch (fieldOfTick on) (fieldOfTick off)
  | .srvang ch deg => packWord 0x03 ch deg 0
  | .srvpls ch us => packWord 0x04 ch us 0
  | .setled id level => packWord 0x05 id level 0
  | .runmot id speed => packWord 0x06 id speed 0
  | .drive dir speed => packWord 0x07 (dirCode dir) speed 0
  | .drivefor dir speed seconds => packWord 0x08 (dirCode dir) speed seconds
  | .stopmot which => packWord 0x09 (whichCode which) 0 0
  | .rdraw => packWord 0x0A 0 0 0
  | .calib => packWord 0x0B 0 0 0
  | .getmax => packWord 0x0C 0 0 0
  | .getmin => packWord 0x0D 0 0 0
  | .rdcal => packWord 0x0E 0 0 0
  | .rdpos => packWord 0x0F 0 0 0

/-- A row of the opcode map as R84 prints it. -/
structure OpcodeRow where
  mnemonic : String
  pattern : Command
  mask : Command
deriving DecidableEq, Repr

/-- A word selects a row iff `W & mask = match` (R84). -/
def OpcodeRow.selects (r : OpcodeRow) (w : Command) : Bool := w &&& r.mask == r.pattern

/-- The fifteen rows of R84. -/
def opcodeTable : List OpcodeRow :=
  [⟨"INIT", 0x010000000000, 0xFFFFFFFFFFFF⟩, ⟨"SETCH", 0x020000000000, 0xFF00F000F000⟩,
   ⟨"SRVANG", 0x030000000000, 0xFF000000FFFF⟩, ⟨"SRVPLS", 0x040000000000, 0xFF000000FFFF⟩,
   ⟨"SETLED", 0x050000000000, 0xFF000000FFFF⟩, ⟨"RUNMOT", 0x060000000000, 0xFF000000FFFF⟩,
   ⟨"DRIVE", 0x070000000000, 0xFF000000FFFF⟩, ⟨"DRIVEFOR", 0x080000000000, 0xFF0000000000⟩] ++
  [⟨"STOPMOT", 0x090000000000, 0xFF00FFFFFFFF⟩, ⟨"RDRAW", 0x0A0000000000, 0xFFFFFFFFFFFF⟩,
   ⟨"CALIB", 0x0B0000000000, 0xFFFFFFFFFFFF⟩, ⟨"GETMAX", 0x0C0000000000, 0xFFFFFFFFFFFF⟩,
   ⟨"GETMIN", 0x0D0000000000, 0xFFFFFFFFFFFF⟩, ⟨"RDCAL", 0x0E0000000000, 0xFFFFFFFFFFFF⟩,
   ⟨"RDPOS", 0x0F0000000000, 0xFFFFFFFFFFFF⟩]

end Sys2Proof
end

