-- ==== Sys2Proof/Config.lean ====
section
/-! DEFINITION. The parameters of the block: the open ones and the register numbers (fixed for a machine, held in
`State.cfg`), the fixed constants, and the free values: the data line and the registers at reset. -/

namespace Sys2Proof

/-- The parameters a machine is built with (00_scope R7, R8). The channel indices are in [0,10] by their type (R7). -/
structure Config where
  gateCh : Fin 11
  m1Fwd : Fin 11
  m1Rev : Fin 11
  m1Mag : Fin 11
  m2Fwd : Fin 11
  m2Rev : Fin 11
  m2Mag : Fin 11
  /-- `TURN_RIGHT_M1_FWD` (R7): a right turn gives motor 1 the positive speed. -/
  turnRightM1Fwd : Bool
  tClkHUs : Nat
  tClkLUs : Nat
  tCalStepMs : Nat
  modeReg : BitVec 8
  prescaleReg : BitVec 8
  chBase : BitVec 8
  /-- `CH_STRIDE` (R8): how many addresses lie between the first registers of two neighbouring channels. -/
  chStride : Nat
  modeResetVal : Byte
  modeSleep : Byte
  modeAi : Byte
  modeRestart : Byte
  /-- `DEV_ADDR` (R8): it belongs to the excluded transport and appears in no event (20_memory R51). -/
  devAddr : BitVec 8
deriving DecidableEq, Repr

namespace Config

/-- The seven open channel indices (R7), gate first. -/
def channels (c : Config) : List (Fin 11) :=
  [c.gateCh, c.m1Fwd, c.m1Rev, c.m1Mag, c.m2Fwd, c.m2Rev, c.m2Mag]

/-- The first address above the channel registers: four for each of channels 0..15 (20_memory R51). -/
def chEnd (c : Config) : Nat := c.chBase.toNat + c.chStride * 15 + 4

/-- What R7 and 20_memory R51 require: the seven indices are distinct, two channels share no register, the channel registers
fit the 8-bit space, and the mode and prescale registers lie outside them and apart. -/
def wf (c : Config) : Bool :=
  decide c.channels.Nodup &&
  decide (4 ≤ c.chStride) &&
  decide (c.chEnd ≤ 256) &&
  decide (c.modeReg.toNat < c.chBase.toNat ∨ c.chEnd ≤ c.modeReg.toNat) &&
  decide (c.prescaleReg.toNat < c.chBase.toNat ∨ c.chEnd ≤ c.prescaleReg.toNat) &&
  decide (c.modeReg ≠ c.prescaleReg)

/-- The register numbers and masks of R8 (PRESUMED by the spec itself: its R8 takes them from general knowledge). -/
def hasR8Numbers (c : Config) : Bool :=
  c.modeReg == 0x00 && c.prescaleReg == 0xFE && c.chBase == 0x06 && c.chStride == 4 && c.modeResetVal == 0x00 &&
  c.modeSleep == 0x10 && c.modeAi == 0x20 && c.modeRestart == 0x80 && c.devAddr == 0x40

/-- REFCFG, the reference configuration (00_scope R7, R8; 92_eei_decisions). -/
def ref : Config where
  gateCh := 10
  m1Fwd := 0
  m1Rev := 1
  m1Mag := 2
  m2Fwd := 3
  m2Rev := 4
  m2Mag := 5
  turnRightM1Fwd := true
  tClkHUs := 1
  tClkLUs := 1
  tCalStepMs := 10
  modeReg := 0x00
  prescaleReg := 0xFE
  chBase := 0x06
  chStride := 4
  modeResetVal := 0x00
  modeSleep := 0x10
  modeAi := 0x20
  modeRestart := 0x80
  devAddr := 0x40

/-- `N_CH` (R6). -/
def nCh : Nat := 16

/-- `OSC_HZ` (R6). -/
def oscHz : Int := 25000000

/-- `TICKS` (R6). -/
def ticks : Int := 4096

/-- `FREQ_HZ` (R6). -/
def freqHz : Int := 500

/-- `T_OSC_SETTLE_US` (R6). -/
def tOscSettleUs : Nat := 5000

/-- `T_GATE_SETTLE_US` (R6). -/
def tGateSettleUs : Nat := 2000

/-- `SERVO_PERIOD_US` (R6, 41_actuators R122). -/
def servoPeriodUs : Int := 20000

/-- `CAL_MIN_DEFAULT` (R6). -/
def calMinDefault : Reading := 100

/-- `CAL_MAX_DEFAULT` (R6). -/
def calMaxDefault : Reading := 650

/-- `CAL_ITER` (R6). -/
def calIter : Nat := 100

/-- `CAL_SPEED` (R6). -/
def calSpeed : Int := 100

/-- The data line's level at sample `n` where the environment has listed none: a draw under no law (10_state R29,
42_line_sensor R139). Free value, entry 5. -/
opaque dinFree : Nat → Bool

/-- MODE after reset number `n`: unspecified (10_state R24, R37). Free value, entry 3. -/
opaque modeFree : Nat → Byte

/-- PRESCALE after reset number `n`: unspecified (10_state R25, R37). Free value, entry 3. -/
opaque prescaleFree : Nat → Byte

/-- `CH[i].on` after reset number `n`: unspecified (10_state R23, R37). Free value, entry 3. -/
opaque onFree : Nat → Fin 16 → Tick

/-- `CH[i].off` after reset number `n`: unspecified (10_state R23, R37). Free value, entry 3. -/
opaque offFree : Nat → Fin 16 → Tick

end Config

end Sys2Proof
end

