-- ==== Sys2Proof/Machine/State.lean ====
section
/-! DEFINITION. The state of the block, its events and responses, the reasons a step can stop, and the state after reset. -/

namespace Sys2Proof.Machine

/-- The two output pins of the sensor link (10_state R28). -/
inductive Pin where
  | clk
  | addr
deriving DecidableEq, Repr

/-- One externally visible action of the block (10_state R36). -/
inductive Event where
  | bw1 (addr : BitVec 8) (byte : Byte)
  | bw4 (addr : BitVec 8) (b0 b1 b2 b3 : Byte)
  | br1 (addr : BitVec 8) (byte : Byte)
  | wait (us : Nat)
  | pin (p : Pin) (level : Bool)
  | sample (bit : Bool)
deriving DecidableEq, Repr

/-- The status of a response (30_encoding R75). -/
inductive Status where
  | ok
  | ignored
  | illegal
deriving DecidableEq, Repr

/-- A response: the status and the results r0..r4 (30_encoding R74). -/
structure Response where
  status : Status
  r : Five Half
deriving DecidableEq, Repr

/-- The `rst` input (10_state R32, 70_reset_and_hazards R207). DESIGN CHOICE, entry 7: when it falls in the life of a command
is said by the number of events the command has produced. -/
inductive ResetInput where
  /-- Not asserted. -/
  | low
  /-- Asserted while the block is idle: no command is accepted. -/
  | idle
  /-- Asserted after the next command has been accepted and has produced `n` events (all of them, if it produces fewer). -/
  | during (n : Nat)
deriving DecidableEq, Repr

/-- A channel's pair (10_state R23). -/
structure Channel where
  on : Tick
  off : Tick
deriving DecidableEq, Repr

/-- The state. The comment at each field names its rule; the fields below `addrO` are inputs, outputs and the model's own
(INVENTORY.md, State). -/
@[ext]
structure State where
  /-- INITED (R22). -/
  inited : Bool
  /-- CH[0..15] (R23); on the bus at the addresses of 20_memory R51 (`State.busByte`). -/
  chs : Vector Channel 16
  /-- MODE (R24). -/
  mode : Byte
  /-- PRESCALE (R25). -/
  prescale : Byte
  /-- CALMIN[0..4] (R26). -/
  calMin : Five Reading
  /-- CALMAX[0..4] (R26). -/
  calMax : Five Reading
  /-- LAST_POS (R27). -/
  lastPos : BitVec 12
  /-- CLK_O (R28). -/
  clkO : Bool
  /-- ADDR_O (R28). -/
  addrO : Bool
  /-- Input: the command words the host offers, oldest first (R33). -/
  cmds : List Command
  /-- Input: `rst` (R32). -/
  rst : ResetInput
  /-- Input: the data line's levels at the coming samples, oldest first (R29). -/
  din : List Bool
  /-- The model's own: how many samples have been taken; it numbers the draws of `Config.dinFree` (entry 5). -/
  dinCount : Nat
  /-- The model's own: how many resets the run has seen; it numbers the draws of the registers' unspecified values (entry 3). -/
  resetCount : Nat
  /-- Output: the response ports; `none` while `rsp_valid` is 0 (R34). -/
  rsp : Option Response
  /-- Output: the event trace, NEWEST FIRST (R36; entry 6). -/
  trace : List Event
  /-- The model's own: the parameters of the machine, which no step changes (R7, R8, R10; entry 1). -/
  cfg : Config
deriving DecidableEq, Repr

/-- The trace in the order the events happened (R36, R59). -/
def State.events (s : State) : List Event := s.trace.reverse

/-- Why a step stops: the block raises no fault (00_scope R11, 60_exceptions R185), so there is no reason. -/
inductive Fault
deriving DecidableEq, Repr

/-- Why a step is refused. -/
inductive Refusal where
  /-- Raised by `exec` for a command without a meaning; no arm of it does. Safe: nothing is claimed of such a step. -/
  | notModelled (mnemonic : String)
deriving DecidableEq, Repr

/-- What a meaning answers. -/
abbrev Answer := Host.Outcome State Fault Refusal

/-- The channels after reset number `n`: both ticks of all sixteen unspecified (R23, R37; free values, entry 3). -/
def unspecifiedChannels (n : Nat) : Vector Channel 16 := Vector.ofFn fun i => ⟨Config.onFree n i, Config.offFree n i⟩

/-- The state right after reset (R37): the values of R37, free values in the registers R37 leaves unspecified, no command, no
response, no event, and the reference configuration (DESIGN CHOICE, entries 1, 3, 4, 5, 6, 7). -/
def State.reset : State where
  inited := false
  chs := unspecifiedChannels 0
  mode := Config.modeFree 0
  prescale := Config.prescaleFree 0
  calMin := .all Config.calMinDefault
  calMax := .all Config.calMaxDefault
  lastPos := 0
  clkO := false
  addrO := false
  cmds := []
  rst := .low
  din := []
  dinCount := 0
  resetCount := 0
  rsp := none
  trace := []
  cfg := Config.ref

end Sys2Proof.Machine
end

