-- ==== Sys2Proof/Machine/Flags.lean ====
section
/-! DEFINITION. The block has no condition codes (10_state R31). Its one stored flag is INITED; its per-command result code is
the status of the response, an output that is latched nowhere (60_exceptions R185, R187); the motor's direction flag is
recomputed from the sign of the speed. -/

namespace Sys2Proof.Machine

/-- `INITED <- 1` (40_pwm_controller R95; nothing but reset clears it, 10_state R22). -/
def setInited (s : State) : State := { s with inited := true }

/-- MotorState's direction flag, "chosen by sign": forward for `speed >= 0`, zero included (10_state R31, 41_actuators R114). -/
def isForward (speed : Int) : Bool := decide (0 ≤ speed)

/-- The status code on `rsp_status` (30_encoding R75). -/
def Status.code : Status → BitVec 2
  | .ok => 0
  | .ignored => 1
  | .illegal => 2

/-- The command ends with a response (30_encoding R74). -/
def respond (status : Status) (r : Five Half) (s : State) : State := { s with rsp := some ⟨status, r⟩ }

/-- `return OK` (00_scope R14). -/
def respondOk (s : State) : State := respond .ok (.all 0) s

/-- `ignore`: no further state change and no further event (00_scope R14, 30_encoding R75). -/
def respondIgnored (s : State) : State := respond .ignored (.all 0) s

/-- The answer to an illegal word: nothing at all happens to the state (30_encoding R75, R76). -/
def respondIllegal (s : State) : State := respond .illegal (.all 0) s

end Sys2Proof.Machine
end

