-- ==== Sys2Proof/Machine/Operands.lean ====
section
/-! DEFINITION. The arithmetic helpers of 00_scope R13, the readings of operand fields (30_encoding R72), and the conversions
from operand values to ticks and results. Values are mathematical integers (R12); each is narrowed once, where it is stored. -/

namespace Sys2Proof.Machine

/-- `clamp(v, lo, hi)` (R13). -/
def clamp (v lo hi : Int) : Int :=
  if v < lo then lo else if hi < v then hi else v

/-- `floor_div(n, d)`: the greatest integer not above n/d, any signs, `d` not 0 (R13). -/
def floorDiv (n d : Int) : Int := n.fdiv d

/-- `round_div(n, d)`: to nearest, a tie toward plus infinity (R13). -/
def roundDiv (n d : Int) : Int := floorDiv (2 * n + d) (2 * d)

/-- `zext_8` of field `a`: a channel or an id (R72). -/
def zext8 (a : Byte) : Nat := a.toNat

/-- `zext_16`: degrees, microseconds, seconds (R72). -/
def zext16 (f : Half) : Nat := f.toNat

/-- `sext_16`: level and speed, two's complement (R12, R72). -/
def sext16 (f : Half) : Int := f.toInt

/-- An integer of [0,4095] as a tick (exact there, R15; entry 12). -/
def tickOfInt (v : Int) : Tick := BitVec.ofInt 12 v

/-- An integer of [0,65535] as a result value (exact there, R15; entry 12). -/
def resultOfInt (v : Int) : Half := BitVec.ofInt 16 v

/-- A raw reading or a range bound as a result value (R74). -/
def resultOfReading (r : Reading) : Half := r.setWidth 16

/-- The prescale byte of a frequency (40_pwm_controller R92; exact for 500 Hz, entry 12). -/
def prescaleByte (freqHz : Int) : Byte :=
  BitVec.ofInt 8 (roundDiv Config.oscHz (Config.ticks * freqHz) - 1)

/-- The pulse width of an angle: `deg*1800/180 + 600`, exact (41_actuators R111). -/
def pulseUs (deg : Nat) : Int := deg * 10 + 600

/-- The tick of a pulse width in microseconds (41_actuators R111, R112, R122). -/
def servoTick (us : Int) : Tick := tickOfInt (roundDiv (us * Config.ticks) Config.servoPeriodUs)

/-- The tick of an LED level, `LED_GAIN` 4 (41_actuators R113). -/
def ledTick (level : Int) : Tick := tickOfInt (clamp (level * 4) 0 4095)

/-- The magnitude tick of a speed, `MOTOR_GAIN` 41; `abs` does not wrap (41_actuators R114). -/
def motorMag (speed : Int) : Tick := tickOfInt (clamp ((speed.natAbs : Int) * 41) 0 4095)

/-- The two motors (41_actuators R121). -/
inductive Motor where
  | m1
  | m2
deriving DecidableEq, Repr

/-- The motor of an id operand; ids other than 1 and 2 name none (41_actuators R115). -/
def motorOfId (id : Byte) : Option Motor :=
  match zext8 id with
  | 1 => some .m1
  | 2 => some .m2
  | _ => none

/-- The forward-enable channel of a motor (41_actuators R121). -/
def fwdCh (c : Config) : Motor → Nat
  | .m1 => c.m1Fwd
  | .m2 => c.m2Fwd

/-- The reverse-enable channel of a motor (41_actuators R121). -/
def revCh (c : Config) : Motor → Nat
  | .m1 => c.m1Rev
  | .m2 => c.m2Rev

/-- The magnitude channel of a motor (41_actuators R121). -/
def magCh (c : Config) : Motor → Nat
  | .m1 => c.m1Mag
  | .m2 => c.m2Mag

/-- The speeds `Drive` gives motor 1 and motor 2 (41_actuators R116). -/
def driveSpeeds (turnRightM1Fwd : Bool) (dir : Dir) (speed : Int) : Int × Int :=
  match dir with
  | .fwd => (speed, speed)
  | .back => (-speed, -speed)
  | .right => if turnRightM1Fwd then (speed, -speed) else (-speed, speed)
  | .left => if turnRightM1Fwd then (-speed, speed) else (speed, -speed)
  | .stop => (0, 0)

/-- Whether `which` selects motor 1: its bit 0 (30_encoding R83, 41_actuators R119). -/
def selectsM1 : Which → Bool
  | .m1 => true
  | .m2 => false
  | .both => true

/-- Whether `which` selects motor 2: its bit 1 (30_encoding R83, 41_actuators R119). -/
def selectsM2 : Which → Bool
  | .m1 => false
  | .m2 => true
  | .both => true

/-- Bits entered one at a time at bit 0 of a 10-bit accumulator (42_line_sensor R134). -/
def shiftIn (acc : Reading) (bit : Bool) : Reading := (acc <<< 1) ||| BitVec.setWidth 10 (BitVec.ofBool bit)

/-- The address level of sub-cycle `s` < 4 of cycle `c`: bit 3 - s of `c` (42_line_sensor R133). -/
def addressBit (c s : Nat) : Bool := c.testBit (3 - s)

/-- The larger of two readings (43_calibrator R153). -/
def maxReading (a b : Reading) : Reading := if a.toNat < b.toNat then b else a

/-- The smaller of two readings (43_calibrator R153). -/
def minReading (a b : Reading) : Reading := if b.toNat < a.toNat then b else a

/-- The merge of a running maximum: raised to the iteration's MINIMUM, if that exceeds it (43_calibrator R154). -/
def mergeMax (running itMin : Reading) : Reading := if running.toNat < itMin.toNat then itMin else running

/-- The merge of a running minimum: lowered to the iteration's MAXIMUM, if that is below it (43_calibrator R154). -/
def mergeMin (running itMax : Reading) : Reading := if itMax.toNat < running.toNat then itMax else running

/-- `Norm` for a range `lo`, `hi` and a raw reading; 0 for equal bounds (44_position R166, R167, R168). -/
def normValue (lo hi raw : Reading) : Int :=
  let den : Int := (hi.toNat : Int) - (lo.toNat : Int)
  if den = 0 then 0
  else clamp (floorDiv (((raw.toNat : Int) - (lo.toNat : Int)) * 1000) den) 0 1000

/-- The inverted value of a normalised value (44_position R170, R174). -/
def inverted (x : Int) : Int := 1000 - x

/-- Whether any sensor detects the line, threshold `DETECT_TH` 200, strict (44_position R170). -/
def detected (x : Five Int) : Bool :=
  (List.finRange 5).any fun i => decide (200 < inverted (x.get i))

/-- What a sensor adds to the plain sum, threshold `NOISE_TH` 50, strict (44_position R170). -/
def contribution (x : Int) : Int := if 50 < inverted x then inverted x else 0

/-- The plain sum (44_position R170). -/
def plainSum (x : Five Int) : Int :=
  contribution x.v0 + contribution x.v1 + contribution x.v2 + contribution x.v3 + contribution x.v4

/-- The weighted sum, weight `i * 1000` for sensor `i` (44_position R170). -/
def weightedSum (x : Five Int) : Int :=
  contribution x.v0 * 0 + contribution x.v1 * 1000 + contribution x.v2 * 2000 + contribution x.v3 * 3000 +
    contribution x.v4 * 4000

/-- The position of a detected line (44_position R170). -/
def positionOf (x : Five Int) : Int := floorDiv (weightedSum x) (plainSum x)

/-- The extreme returned when no line is detected (44_position R171). -/
def fallbackPosition (lastPos : BitVec 12) : Int := if lastPos.toNat < 2000 then 0 else 4000

end Sys2Proof.Machine
end

