-- ==== Sys2Proof/Machine/Ops.lean ====
section
/-! DEFINITION. The named operations over the bus, the pins and the data line, and the procedures commands share. The block
takes no exception and returns from none (60_exceptions R185, R190, R191), so no operation here saves or restores a state. -/

namespace Sys2Proof.Machine

/-! ### The address map (20_memory R51) -/

/-- The address of byte `k` of channel `ch`: `CH_BASE + CH_STRIDE*ch + k`, 8 bits (00_scope R8, 20_memory R51). -/
def chAddr (c : Config) (ch k : Nat) : BitVec 8 := c.chBase + BitVec.ofNat 8 (c.chStride * ch + k)

/-- The registers with one-byte access. -/
inductive ByteReg where
  | mode
  | prescale
deriving DecidableEq, Repr

/-- Their addresses. -/
def ByteReg.addr (c : Config) : ByteReg → BitVec 8
  | .mode => c.modeReg
  | .prescale => c.prescaleReg

/-! ### Events and the link's lines -/

/-- An event joins the trace (10_state R36). -/
def emit (e : Event) (s : State) : State := { s with trace := e :: s.trace }

/-- `Wait(n us)`: an event and nothing else (00_scope R14, 60_exceptions R193). -/
def wait (us : Nat) (s : State) : State := emit (.wait us) s

/-- `Wait(n ms)` (00_scope R14). -/
def waitMs (ms : Nat) (s : State) : State := wait (1000 * ms) s

/-- `PinWrite(CLK, v)`: an event even if the level does not change (10_state R36). -/
def clkWrite (v : Bool) (s : State) : State := emit (.pin .clk v) { s with clkO := v }

/-- `PinWrite(ADDR, v)` (10_state R36). -/
def addrWrite (v : Bool) (s : State) : State := emit (.pin .addr v) { s with addrO := v }

/-- The bit the environment presents at the `n`-th sample from now: the listed one, and past the list a free value (10_state
R29, 42_line_sensor R139; entry 5). -/
def dinBit (s : State) (n : Nat) : Bool := (s.din[n]?).getD (Config.dinFree (s.dinCount + n))

/-- `PinSample()`: the bit, and the state in which that sample is spent (00_scope R14, 10_state R29, R36). -/
def pinSample (s : State) : Bool × State :=
  (dinBit s 0, emit (.sample (dinBit s 0)) { s with din := s.din.tail, dinCount := s.dinCount + 1 })

/-! ### The register bus -/

/-- A tick from its low byte and its high byte, `hi[3:0], lo` (20_memory R53). -/
def tickOfBytes (lo hi : Byte) : Tick := (hi.extractLsb' 0 4) ++ lo

/-- The low byte of a tick, `t[7:0]` (20_memory R55). -/
def tickLow (t : Tick) : Byte := t.extractLsb' 0 8

/-- The high byte of a tick, four zero bits above `t[11:8]` (20_memory R55). -/
def tickHigh (t : Tick) : Byte := 0#4 ++ t.extractLsb' 8 4

/-- `MODE <- v` or `PRESCALE <- v` (20_memory R52). -/
def setByteReg (r : ByteReg) (v : Byte) (s : State) : State :=
  match r with
  | .mode => { s with mode := v }
  | .prescale => { s with prescale := v }

/-- `CH[ch] <- c`, both ticks together (10_state R23). -/
def setCh (ch : Nat) (c : Channel) (s : State) : State := { s with chs := s.chs.setIfInBounds ch c }

/-- `MemWrite(addr, 1, v)` at one of its two addresses (20_memory R52). -/
def memWrite1 (r : ByteReg) (v : Byte) (s : State) : State := emit (.bw1 (r.addr s.cfg) v) (setByteReg r v s)

/-- `MemWrite(CH_BASE + 4*ch, 4, ...)`: one transaction, one event; the high nibbles of `b1` and `b3` are dropped (20_memory
R53; entry 13). -/
def memWrite4 (ch : Nat) (b0 b1 b2 b3 : Byte) (s : State) : State :=
  emit (.bw4 (chAddr s.cfg ch 0) b0 b1 b2 b3) (setCh ch ⟨tickOfBytes b0 b1, tickOfBytes b2 b3⟩ s)

/-- `MemRead(MODE_REG, 1)`: MODE, and one event (20_memory R54). -/
def memReadMode (s : State) : Byte × State := (s.mode, emit (.br1 s.cfg.modeReg s.mode) s)

/-! ### The register file as the bus shows it -/

/-- `CH[i]` (10_state R23); `none` only for an index outside 0..15, which is no channel's. -/
def State.ch (s : State) (i : Nat) : Option Channel := s.chs[i]?

/-- Byte `k` of a channel's four registers (20_memory R51, R55). -/
def Channel.byte (c : Channel) (k : Nat) : Byte :=
  match k with
  | 0 => tickLow c.on
  | 1 => tickHigh c.on
  | 2 => tickLow c.off
  | _ => tickHigh c.off

/-- The byte the register file holds at a bus address (20_memory R51); `none` at an unmapped one, to which the block gives no
access and the model no meaning (20_memory R58). -/
def State.busByte (s : State) (a : BitVec 8) : Option Byte :=
  if a = s.cfg.modeReg then some s.mode
  else if a = s.cfg.prescaleReg then some s.prescale
  else if a.toNat < s.cfg.chBase.toNat then none
  else
    let off := a.toNat - s.cfg.chBase.toNat
    if 4 ≤ off % s.cfg.chStride then none
    else (s.ch (off / s.cfg.chStride)).map fun c => c.byte (off % s.cfg.chStride)

/-! ### Channel writes -/

/-- `ChWrite(ch, on, off)`: a silent no-op outside 0..15 (40_pwm_controller R93; entry 14). -/
def chWrite (ch : Nat) (on off : Tick) (s : State) : State :=
  if 15 < ch then s else memWrite4 ch (tickLow on) (tickHigh on) (tickLow off) (tickHigh off) s

/-- `SetValue(ch, v)` (40_pwm_controller R98). -/
def setValue (ch : Nat) (v : Tick) (s : State) : State := chWrite ch 0 v s

/-! ### Initialisation -/

/-- `SetFrequency(freqHz)` (40_pwm_controller R92). -/
def setFrequency (freqHz : Int) (s : State) : State :=
  let c := s.cfg
  let (old, s1) := memReadMode s
  memWrite1 .mode (old ||| c.modeRestart ||| c.modeAi)
    (wait Config.tOscSettleUs
      (memWrite1 .mode old
        (memWrite1 .prescale (prescaleByte freqHz)
          (memWrite1 .mode ((old &&& ~~~c.modeRestart) ||| c.modeSleep) s1))))

/-- The channels zeroed by the initialisation, in ascending order, the gate left out (40_pwm_controller R95). -/
def zeroedChannels (c : Config) : List Nat := (List.range Config.nCh).filter fun ch => ch != c.gateCh.val

/-- The last two steps of the initialisation: gate fully on, all other channels zero (40_pwm_controller R95). -/
def initChannels (s : State) : State :=
  (zeroedChannels s.cfg).foldl (fun t ch => chWrite ch 0 0 t) (chWrite s.cfg.gateCh 0 4095 s)

/-- `InitSequence()` (40_pwm_controller R95). -/
def initSequence (s : State) : State :=
  initChannels (setFrequency Config.freqHz (memWrite1 .mode s.cfg.modeResetVal (setInited s)))

/-- `EnsureInit()` (40_pwm_controller R91). -/
def ensureInit (s : State) : State := if s.inited then s else initSequence s

/-- A command of the self-initialising set: `EnsureInit()` first, then the rest (30_encoding R78, 40_pwm_controller R100). -/
def withInit (rest : State → State) (s : State) : Answer := .next (rest (ensureInit s))

/-! ### Motors -/

/-- `Run(m, speed)`: forward-enable, reverse-enable, magnitude, in that order (41_actuators R114). -/
def run (m : Motor) (speed : Int) (s : State) : State :=
  let on : Tick := if isForward speed then 4095 else 0
  let off : Tick := if isForward speed then 0 else 4095
  setValue (magCh s.cfg m) (motorMag speed) (setValue (revCh s.cfg m) off (setValue (fwdCh s.cfg m) on s))

/-- `Drive(dir, speed)`: motor 1, then motor 2 (41_actuators R116). -/
def driveBoth (dir : Dir) (speed : Int) (s : State) : State :=
  run .m2 (driveSpeeds s.cfg.turnRightM1Fwd dir speed).2 (run .m1 (driveSpeeds s.cfg.turnRightM1Fwd dir speed).1 s)

/-! ### The sensor link -/

/-- One sub-cycle: address drive (in the first four), sample, clock pulse (42_line_sensor R131, R132, R133, R135). -/
def subCycle (c : Nat) (acc : Reading × State) (k : Nat) : Reading × State :=
  let s1 := if k < 4 then addrWrite (addressBit c k) acc.2 else acc.2
  let (bit, s2) := pinSample s1
  (shiftIn acc.1 bit, wait s2.cfg.tClkLUs (clkWrite false (wait s2.cfg.tClkHUs (clkWrite true s2))))

/-- One conversion cycle: the value accumulated over ten sub-cycles (42_line_sensor R131, R134). -/
def cycle (c : Nat) (s : State) : Reading × State := (List.range 10).foldl (subCycle c) (0, s)

/-- `ReadSensors()`: gate off, settle, six cycles of which the first is discarded, gate on (42_line_sensor R131, R136, R137). -/
def readSensors (s : State) : Five Reading × State :=
  let (_, s0) := cycle 0 (wait Config.tGateSettleUs (setValue s.cfg.gateCh 0 s))
  let (r0, s1) := cycle 1 s0
  let (r1, s2) := cycle 2 s1
  let (r2, s3) := cycle 3 s2
  let (r3, s4) := cycle 4 s3
  let (r4, s5) := cycle 5 s4
  (⟨r0, r1, r2, r3, r4⟩, setValue s.cfg.gateCh 4095 s5)

/-! ### Reset -/

/-- Whether an event spends a bit of the data line. -/
def isSample : Event → Bool
  | .sample _ => true
  | _ => false

/-- The state a reset leaves: R37, with the machine's parameters, the trace so far and the environment's remaining inputs
(10_state R37, R38, 70_reset_and_hazards R205; entry 7). Each reset draws the unspecified registers afresh (entry 3). -/
def resetFrom (s : State) : State :=
  { State.reset with
    chs := unspecifiedChannels (s.resetCount + 1)
    mode := Config.modeFree (s.resetCount + 1)
    prescale := Config.prescaleFree (s.resetCount + 1)
    resetCount := s.resetCount + 1
    cfg := s.cfg
    cmds := s.cmds
    din := s.din
    dinCount := s.dinCount
    trace := s.trace }

/-- A reset that falls after the first `n` events of a command: `s` is the state that accepted it, `t` the state it would have
ended in. The events so far stand, with the samples they spent; no further event and no response (70_reset_and_hazards R207). -/
def abandonAt (n : Nat) (s t : State) : State :=
  let made := (t.trace.take (t.trace.length - s.trace.length)).drop (t.trace.length - s.trace.length - n)
  let spent := made.countP isSample
  resetFrom { s with trace := made ++ s.trace, din := s.din.drop spent, dinCount := s.dinCount + spent }

end Sys2Proof.Machine
end

