-- ==== Sys2Proof/Machine/Actuators.lean ====
section
/-! DEFINITION. SRVANG, SRVPLS, SETLED, RUNMOT, DRIVE, DRIVEFOR, STOPMOT (41_actuators). -/

namespace Sys2Proof.Machine

/-- SRVANG ch, deg (41_actuators R111). -/
def execSrvang (ch : Byte) (deg : Half) (s : State) : Answer :=
  withInit (fun t =>
    if 180 < zext16 deg then respondIgnored t
    else if 15 < zext8 ch then respondIgnored t
    else respondOk (setValue (zext8 ch) (servoTick (pulseUs (zext16 deg))) t)) s

/-- SRVPLS ch, us (41_actuators R112). -/
def execSrvpls (ch : Byte) (us : Half) (s : State) : Answer :=
  withInit (fun t =>
    if zext16 us < 500 ∨ 2500 < zext16 us then respondIgnored t
    else if 15 < zext8 ch then respondIgnored t
    else respondOk (setValue (zext8 ch) (servoTick (zext16 us)) t)) s

/-- SETLED id, level (41_actuators R113). -/
def execSetled (id : Byte) (level : Half) (s : State) : Answer :=
  withInit (fun t =>
    if zext8 id < 1 ∨ 5 < zext8 id then respondIgnored t
    else respondOk (setValue (10 + zext8 id) (ledTick (sext16 level)) t)) s

/-- RUNMOT id, speed (41_actuators R115). -/
def execRunmot (id : Byte) (speed : Half) (s : State) : Answer :=
  withInit (fun t =>
    match motorOfId id with
    | some m => respondOk (run m (sext16 speed) t)
    | none => respondIgnored t) s

/-- DRIVE dir, speed (41_actuators R117). -/
def execDrive (dir : Coded Dir) (speed : Half) (s : State) : Answer :=
  withInit (fun t =>
    match dir with
    | .named d => respondOk (driveBoth d (sext16 speed) t)
    | .outside _ => respondIgnored t) s

/-- DRIVEFOR dir, speed, seconds (41_actuators R118). -/
def execDrivefor (dir : Coded Dir) (speed seconds : Half) (s : State) : Answer :=
  withInit (fun t =>
    match dir with
    | .named d =>
      respondOk (driveBoth .stop 0 (waitMs (zext16 seconds * 1000) (driveBoth d (sext16 speed) t)))
    | .outside _ => respondIgnored t) s

/-- STOPMOT which (41_actuators R119). -/
def execStopmot (which : Coded Which) (s : State) : Answer :=
  withInit (fun t =>
    match which with
    | .named w =>
      let t1 := if selectsM1 w then run .m1 0 t else t
      respondOk (if selectsM2 w then run .m2 0 t1 else t1)
    | .outside _ => respondIgnored t) s

end Sys2Proof.Machine
end

