-- ==== Sys2Proof/Machine/Calibrator.lean ====
section
/-! DEFINITION. CALIB, GETMAX, GETMIN (43_calibrator). -/

namespace Sys2Proof.Machine

/-- The extremes of one iteration's readings so far. -/
structure Extremes where
  itMax : Five Reading
  itMin : Five Reading
deriving DecidableEq, Repr

/-- The ranges at the start of a calibration (43_calibrator R151). -/
def resetRanges (s : State) : State := { s with calMax := .all 0, calMin := .all 1023 }

/-- Sample j = 0 of an iteration sets both extremes (43_calibrator R150). -/
def firstSample (s : State) : Extremes × State :=
  (⟨(readSensors s).1, (readSensors s).1⟩, (readSensors s).2)

/-- A later sample widens them (43_calibrator R150, R153). -/
def nextSample (e : Extremes × State) : Extremes × State :=
  let (raw, t) := readSensors e.2
  (⟨e.1.itMax.zipWith maxReading raw, e.1.itMin.zipWith minReading raw⟩, t)

/-- The five fresh samples of an iteration (43_calibrator R153). -/
def fiveSamples (s : State) : Extremes × State := nextSample (nextSample (nextSample (nextSample (firstSample s))))

/-- The conservative merge (43_calibrator R154). -/
def mergeRanges (e : Extremes) (s : State) : State :=
  { s with calMax := s.calMax.zipWith mergeMax e.itMin, calMin := s.calMin.zipWith mergeMin e.itMax }

/-- The direction of iteration `k` (43_calibrator R152). -/
def sweepDir (k : Nat) : Dir := if k < 25 ∨ 75 ≤ k then .left else .right

/-- Iteration `k`: drive, five samples, merge, steering wait (43_calibrator R150). -/
def calIteration (s : State) (k : Nat) : State :=
  let (e, t) := fiveSamples (driveBoth (sweepDir k) Config.calSpeed s)
  waitMs t.cfg.tCalStepMs (mergeRanges e t)

/-- The whole sweep and the stop (43_calibrator R150, R155). -/
def calibrate (s : State) : State :=
  driveBoth .stop 0 ((List.range Config.calIter).foldl calIteration (resetRanges s))

/-- CALIB (43_calibrator R150). -/
def execCalib (s : State) : Answer := withInit (fun t => respondOk (calibrate t)) s

/-- GETMAX: no self-initialisation (43_calibrator R156). -/
def execGetmax (s : State) : Answer := .next (respond .ok (s.calMax.map resultOfReading) s)

/-- GETMIN: no self-initialisation (43_calibrator R157). -/
def execGetmin (s : State) : Answer := .next (respond .ok (s.calMin.map resultOfReading) s)

end Sys2Proof.Machine
end

