-- ==== Sys2Proof/Machine/LineSensor.lean ====
section
/-! DEFINITION. RDRAW (42_line_sensor). -/

namespace Sys2Proof.Machine

/-- RDRAW (42_line_sensor R138). -/
def execRdraw (s : State) : Answer :=
  withInit (fun t => respond .ok ((readSensors t).1.map resultOfReading) (readSensors t).2) s

end Sys2Proof.Machine
end

