-- ==== Sys2Proof/Machine/Position.lean ====
section
/-! DEFINITION. RDCAL and RDPOS (44_position). -/

namespace Sys2Proof.Machine

/-- `Norm(i, raw[i])` for the five sensors (44_position R166). -/
def normalise (s : State) (raw : Five Reading) : Five Int :=
  ⟨normValue s.calMin.v0 s.calMax.v0 raw.v0, normValue s.calMin.v1 s.calMax.v1 raw.v1,
   normValue s.calMin.v2 s.calMax.v2 raw.v2, normValue s.calMin.v3 s.calMax.v3 raw.v3,
   normValue s.calMin.v4 s.calMax.v4 raw.v4⟩

/-- `LAST_POS <- pos` (44_position R170, R175). -/
def setLastPos (pos : Int) (s : State) : State := { s with lastPos := BitVec.ofInt 12 pos }

/-- `Position(x)`: the position, and the state in which it is stored if the line was detected (44_position R170, R171). -/
def position (x : Five Int) (s : State) : Int × State :=
  if detected x then (positionOf x, setLastPos (positionOf x) s)
  else (fallbackPosition s.lastPos, s)

/-- RDCAL (44_position R169). -/
def execRdcal (s : State) : Answer :=
  withInit (fun t =>
    let (raw, u) := readSensors t
    respond .ok ((normalise u raw).map resultOfInt) u) s

/-- RDPOS (44_position R172). -/
def execRdpos (s : State) : Answer :=
  withInit (fun t =>
    let (raw, u) := readSensors t
    let (pos, v) := position (normalise u raw) u
    respond .ok ⟨resultOfInt pos, 0, 0, 0, 0⟩ v) s

end Sys2Proof.Machine
end

