-- ==== Sys2Proof/Machine/Pwm.lean ====
section
/-! DEFINITION. INIT and SETCH (40_pwm_controller). -/

namespace Sys2Proof.Machine

/-- INIT (40_pwm_controller R90). -/
def execInit (s : State) : Answer := withInit respondOk s

/-- SETCH ch, on, off (40_pwm_controller R94). -/
def execSetch (ch : Byte) (on off : Tick) (s : State) : Answer :=
  withInit (fun t => if 15 < zext8 ch then respondIgnored t else respondOk (chWrite (zext8 ch) on off t)) s

end Sys2Proof.Machine
end

