-- ==== Sys2Proof/Machine/Dispatch.lean ====
section
/-! DEFINITION. One arm for each constructor of Instr. -/

namespace Sys2Proof.Machine

def exec (i : Instr) (s : State) : Host.Outcome State Fault Refusal :=
  match i with
  | .init => Sys2Proof.Machine.execInit s
  | .setch ch on off => Sys2Proof.Machine.execSetch ch on off s
  | .srvang ch deg => Sys2Proof.Machine.execSrvang ch deg s
  | .srvpls ch us => Sys2Proof.Machine.execSrvpls ch us s
  | .setled id level => Sys2Proof.Machine.execSetled id level s
  | .runmot id speed => Sys2Proof.Machine.execRunmot id speed s
  | .drive dir speed => Sys2Proof.Machine.execDrive dir speed s
  | .drivefor dir speed seconds => Sys2Proof.Machine.execDrivefor dir speed seconds s
  | .stopmot which => Sys2Proof.Machine.execStopmot which s
  | .rdraw => Sys2Proof.Machine.execRdraw s
  | .calib => Sys2Proof.Machine.execCalib s
  | .getmax => Sys2Proof.Machine.execGetmax s
  | .getmin => Sys2Proof.Machine.execGetmin s
  | .rdcal => Sys2Proof.Machine.execRdcal s
  | .rdpos => Sys2Proof.Machine.execRdpos s

end Sys2Proof.Machine
end

