-- ==== Sys2Proof/Machine/Ports.lean ====
section
/-! DEFINITION. The output ports of 10_state R32 as functions of the state, as they stand after a step. -/

namespace Sys2Proof.Machine

/-- The duty window: asserted at phase `t` iff `((t - on) mod 4096) < ((off - on) mod 4096)` (40_pwm_controller R96). -/
def Channel.asserted (c : Channel) (t : Tick) : Bool := decide ((t - c.on).toNat < (c.off - c.on).toNat)

/-- `pwm_out[i]` at phase `t` of the tick counter (10_state R35, 40_pwm_controller R96). Before the first `InitSequence` the
outputs hold no specified value: the level is then `free`, whatever that is (93_implementation_defined U14). Neither the phase
nor that level is state: entry 9. -/
def State.pwmOut (s : State) (i : Fin 16) (t : Tick) (free : Bool) : Bool :=
  if s.inited then s.chs[i].asserted t else free

/-- `ls_clk` (10_state R32). -/
def State.lsClk (s : State) : Bool := s.clkO

/-- `ls_addr` (10_state R32). -/
def State.lsAddr (s : State) : Bool := s.addrO

/-- `busy`: 0 between steps, since a command is one step (10_state R21, R30, R33; entry 8). -/
def State.busy (_ : State) : Bool := false

/-- `cmd_ready` equals not `busy` (10_state R32). -/
def State.cmdReady (s : State) : Bool := !s.busy

/-- `rsp_valid`: 1 exactly after a step that ended a command (10_state R34). -/
def State.rspValid (s : State) : Bool := s.rsp.isSome

/-- `rsp_status`; no value while `rsp_valid` is 0 (10_state R34). -/
def State.rspStatus (s : State) : Option (BitVec 2) := s.rsp.map fun r => r.status.code

/-- `rsp_r0` .. `rsp_r4`; no value while `rsp_valid` is 0 (10_state R34). -/
def State.rspResults (s : State) : Option (Five Half) := s.rsp.map fun r => r.r

end Sys2Proof.Machine
end

