-- ==== Sys2Proof/Machine/Step.lean ====
section
/-! DEFINITION. One step: a command from acceptance to response, an idle cycle, or a reset. -/

namespace Sys2Proof.Machine

/-- A command word taken from the host (30_encoding R78): an illegal word is answered ILLEGAL, any other is executed. -/
def runWord (w : Command) (s : State) : Answer :=
  match decode w with
  | .ok i => exec i s
  | .error _ => .next (respondIllegal s)

/-- The state in which the host's word has been taken and the response of the command before is gone (10_state R33, R34). -/
def accepted (rest : List Command) (s : State) : State := { s with cmds := rest, rsp := none }

/-- An idle cycle: nothing changes but that `rsp_valid` falls (10_state R34, 60_exceptions R198). -/
def idleCycle (s : State) : State := { s with rsp := none }

/-- A reset after the first `n` events of the command offered, if one is (70_reset_and_hazards R207): the run it cuts short is
the run without it. -/
def resetDuring (n : Nat) (s : State) : Answer :=
  match s.cmds with
  | [] => .next (resetFrom s)
  | w :: rest =>
    match runWord w (accepted rest { s with rst := .low }) with
    | .next t => .next (abandonAt n (accepted rest s) t)
    | .fault f => .fault f
    | .refused r => .refused r

/-- One step (10_state R33; 60_exceptions R199). -/
def step (s : State) : Host.Outcome State Fault Refusal :=
  match s.rst with
  | .idle => .next (resetFrom s)
  | .during n => resetDuring n s
  | .low =>
    match s.cmds with
    | [] => .next (idleCycle s)
    | w :: rest => runWord w (accepted rest s)

/-- `s` with the table's word offered as the next command (and `rst` low, so that it is executed); bits above `nbits` are
zero. -/
def State.withFetchWord (s : State) (nbits w : Nat) : State :=
  { s with cmds := BitVec.ofNat 48 (w % 2 ^ nbits) :: s.cmds, rst := .low }

end Sys2Proof.Machine
end

