-- ==== Sys2Proof/Safety.lean ====
section
/-! DEFINITION. The terms claims about the block are made in: frames, traces, the values a read and a calibration take from the
data line, and the invariant of 10_state R39. -/

namespace Sys2Proof.Machine

/-! ### Words and operands -/

/-- A word that R76 calls illegal, said of its number: an opcode outside the map, or a field that its format must leave zero
(30_encoding R71, R73, R76, R77). -/
def IllegalWord (w : Command) : Prop :=
  let op := w.toNat / 2 ^ 40
  let a := w.toNat / 2 ^ 32 % 2 ^ 8
  let b := w.toNat / 2 ^ 16 % 2 ^ 16
  let c := w.toNat % 2 ^ 16
  op = 0 ∨ 16 ≤ op ∨
  ((op = 1 ∨ 10 ≤ op) ∧ (a ≠ 0 ∨ b ≠ 0 ∨ c ≠ 0)) ∨
  (op = 9 ∧ (b ≠ 0 ∨ c ≠ 0)) ∨
  (3 ≤ op ∧ op ≤ 7 ∧ c ≠ 0) ∨
  (op = 2 ∧ (4096 ≤ b ∨ 4096 ≤ c))

/-- The IGNORED response (30_encoding R74, R75). -/
def ignoredResponse : Response := ⟨.ignored, ⟨0, 0, 0, 0, 0⟩⟩

/-- The ILLEGAL response (30_encoding R74, R75). -/
def illegalResponse : Response := ⟨.illegal, ⟨0, 0, 0, 0, 0⟩⟩

/-- The OK response of a command that returns nothing (30_encoding R74, R75). -/
def okResponse : Response := ⟨.ok, ⟨0, 0, 0, 0, 0⟩⟩

/-! ### Initialisation -/

/-- The state a self-initialising command starts its own work in (30_encoding R78 step 3). -/
def State.afterInit (s : State) : State := ensureInit s

/-- The event of a channel write (20_memory R55, 40_pwm_controller R93). -/
def channelEvent (c : Config) (ch : Nat) (on off : Tick) : Event :=
  .bw4 (chAddr c ch 0) (tickLow on) (tickHigh on) (tickLow off) (tickHigh off)

/-- The 23 events of `InitSequence`, oldest first (40_pwm_controller R92, R95). -/
def initEvents (c : Config) : List Event :=
  [.bw1 c.modeReg c.modeResetVal, .br1 c.modeReg c.modeResetVal,
   .bw1 c.modeReg ((c.modeResetVal &&& ~~~c.modeRestart) ||| c.modeSleep), .bw1 c.prescaleReg 11,
   .bw1 c.modeReg c.modeResetVal, .wait 5000, .bw1 c.modeReg (c.modeResetVal ||| c.modeRestart ||| c.modeAi),
   channelEvent c c.gateCh 0 4095] ++
  ((List.range 16).filter fun ch => ch != c.gateCh.val).map fun ch => channelEvent c ch 0 0

/-- MODE after the first initialisation (40_pwm_controller R101). -/
def initialisedMode (c : Config) : Byte := c.modeResetVal ||| c.modeRestart ||| c.modeAi

/-! ### Frames -/

/-- Every register but the sixteen channels, every input and the parameters agree. -/
structure SameRegisters (s t : State) : Prop where
  inited : t.inited = s.inited
  mode : t.mode = s.mode
  prescale : t.prescale = s.prescale
  calMin : t.calMin = s.calMin
  calMax : t.calMax = s.calMax
  lastPos : t.lastPos = s.lastPos
  clkO : t.clkO = s.clkO
  addrO : t.addrO = s.addrO
  cmds : t.cmds = s.cmds
  rst : t.rst = s.rst
  din : t.din = s.din
  dinCount : t.dinCount = s.dinCount
  resetCount : t.resetCount = s.resetCount
  cfg : t.cfg = s.cfg

/-- Every channel holds what it held, except those listed. -/
def SameChannelsExcept (written : List Nat) (s t : State) : Prop := ∀ i : Nat, i ∉ written → t.ch i = s.ch i

/-- The events of the step are exactly `es`, oldest first (10_state R36). -/
def Emits (es : List Event) (s t : State) : Prop := t.events = s.events ++ es

/-- A motor's forward-enable, reverse-enable and magnitude channel (41_actuators R121). -/
def motorChannels (c : Config) : Motor → Nat × Nat × Nat
  | .m1 => (c.m1Fwd.val, c.m1Rev.val, c.m1Mag.val)
  | .m2 => (c.m2Fwd.val, c.m2Rev.val, c.m2Mag.val)

/-- The channels a motor's commands write (41_actuators R121). -/
def writtenByMotor (c : Config) (m : Motor) : List Nat :=
  [(motorChannels c m).1, (motorChannels c m).2.1, (motorChannels c m).2.2]

/-- The magnitude tick of a speed: `min(|speed| * 41, 4095)` (41_actuators R114). -/
def magnitude (speed : Int) : Tick := BitVec.ofNat 12 (min (speed.natAbs * 41) 4095)

/-- A motor's three channels after `Run(m, speed)` (41_actuators R114). -/
structure MotorRuns (m : Motor) (speed : Int) (t : State) : Prop where
  fwd : t.ch (motorChannels t.cfg m).1 = some ⟨0, if 0 ≤ speed then 4095 else 0⟩
  rev : t.ch (motorChannels t.cfg m).2.1 = some ⟨0, if 0 ≤ speed then 0 else 4095⟩
  mag : t.ch (motorChannels t.cfg m).2.2 = some ⟨0, magnitude speed⟩

/-- The three events of `Run(m, speed)` (41_actuators R114). -/
def runEvents (c : Config) (m : Motor) (speed : Int) : List Event :=
  [channelEvent c (motorChannels c m).1 0 (if 0 ≤ speed then 4095 else 0),
   channelEvent c (motorChannels c m).2.1 0 (if 0 ≤ speed then 0 else 4095),
   channelEvent c (motorChannels c m).2.2 0 (magnitude speed)]

/-! ### Reads of the sensor link -/

/-- The value the ten samples from sample `n` on accumulate: first sample at bit 9 (42_line_sensor R134). -/
def sampleValue (s : State) (n : Nat) : Nat :=
  ((List.range 10).map fun k => (dinBit s (n + k)).toNat * 2 ^ (9 - k)).sum

/-- `raw[i]` of a read that begins at sample `n` (42_line_sensor R136). -/
def rawValue (s : State) (n : Nat) (i : Fin 5) : Nat := sampleValue s (n + 10 * (i.val + 1))

/-- The five raw readings of a read that begins at sample `n`. -/
def rawReadings (s : State) (n : Nat) : Five Reading := .ofFn fun i => BitVec.ofNat 10 (rawValue s n i)

/-- The events of sub-cycle `k` of cycle `c` that samples `bit`: in the first four the address line carries the four bits of
the number `c`, most significant first (42_line_sensor R131, R133). -/
def subCycleEvents (cfg : Config) (c k : Nat) (bit : Bool) : List Event :=
  (if k < 4 then [.pin .addr (decide (c / 2 ^ (3 - k) % 2 = 1))] else []) ++
  [.sample bit, .pin .clk true, .wait cfg.tClkHUs, .pin .clk false, .wait cfg.tClkLUs]

/-- The 327 events of a read that begins at sample `n` (42_line_sensor R131). -/
def readEvents (s : State) (n : Nat) : List Event :=
  [channelEvent s.cfg s.cfg.gateCh 0 0, .wait 2000] ++
  ((List.range 6).flatMap fun c => (List.range 10).flatMap fun k =>
    subCycleEvents s.cfg c k (dinBit s (n + (10 * c + k)))) ++
  [channelEvent s.cfg s.cfg.gateCh 0 4095]

/-- What a read leaves in the registers: the link's lines at rest, the gate fully on, sixty samples spent, nothing else
(42_line_sensor R140). -/
structure ReadLeaves (s t : State) : Prop where
  inited : t.inited = s.inited
  mode : t.mode = s.mode
  prescale : t.prescale = s.prescale
  calMin : t.calMin = s.calMin
  calMax : t.calMax = s.calMax
  clkO : t.clkO = false
  addrO : t.addrO = true
  cmds : t.cmds = s.cmds
  rst : t.rst = s.rst
  din : t.din = s.din.drop 60
  dinCount : t.dinCount = s.dinCount + 60
  resetCount : t.resetCount = s.resetCount
  cfg : t.cfg = s.cfg
  gate : t.ch s.cfg.gateCh = some ⟨0, 4095⟩
  others : SameChannelsExcept [s.cfg.gateCh.val] s t

/-! ### Calibration -/

/-- The reading of sensor `i` in sample `j` of iteration `k` of a calibration (43_calibrator R150, R153). -/
def calReading (s : State) (k j : Nat) (i : Fin 5) : Nat := rawValue s (60 * (5 * k + j)) i

/-- The smallest reading of sensor `i` in iteration `k` (43_calibrator R153). -/
def itMinOf (s : State) (i : Fin 5) (k : Nat) : Nat :=
  min (calReading s k 0 i) (min (calReading s k 1 i) (min (calReading s k 2 i)
    (min (calReading s k 3 i) (calReading s k 4 i))))

/-- The largest reading of sensor `i` in iteration `k` (43_calibrator R153). -/
def itMaxOf (s : State) (i : Fin 5) (k : Nat) : Nat :=
  max (calReading s k 0 i) (max (calReading s k 1 i) (max (calReading s k 2 i)
    (max (calReading s k 3 i) (calReading s k 4 i))))

/-- The running maximum after the first `n` iterations (43_calibrator R151, R154). -/
def runningMax (s : State) (i : Fin 5) : Nat → Nat
  | 0 => 0
  | n + 1 => if runningMax s i n < itMinOf s i n then itMinOf s i n else runningMax s i n

/-- The running minimum after the first `n` iterations (43_calibrator R151, R154). -/
def runningMin (s : State) (i : Fin 5) : Nat → Nat
  | 0 => 1023
  | n + 1 => if itMaxOf s i n < runningMin s i n then itMaxOf s i n else runningMin s i n

/-- The six events of `Drive(LEFT, 100)` or `Drive(RIGHT, 100)` (41_actuators R116). -/
def pivotEvents (c : Config) (left : Bool) : List Event :=
  let v1 : Int := if left = c.turnRightM1Fwd then -100 else 100
  runEvents c .m1 v1 ++ runEvents c .m2 (-v1)

/-- The events of iteration `k` of a calibration (43_calibrator R150, R152, R153). -/
def calIterationEvents (s : State) (k : Nat) : List Event :=
  pivotEvents s.cfg (decide (k < 25 ∨ 75 ≤ k)) ++ ((List.range 5).flatMap fun j => readEvents s (60 * (5 * k + j))) ++
  [.wait (1000 * s.cfg.tCalStepMs)]

/-- The events of a calibration that begins at `s`'s first sample, after any initialisation (43_calibrator R150, R155). -/
def calEvents (s : State) : List Event :=
  (List.range 100).flatMap (calIterationEvents s) ++ runEvents s.cfg .m1 0 ++ runEvents s.cfg .m2 0

/-! ### Normalised values and the position -/

/-- `x` is the normalised value of `raw` against the range `lo`, `hi`: 0 for equal bounds, else the real quotient rounded down
and held in [0,1000], said by multiplication (44_position R166, R167, R168). -/
def IsNorm (lo hi raw : Reading) (x : Int) : Prop :=
  let den : Int := (hi.toNat : Int) - (lo.toNat : Int)
  let num : Int := ((raw.toNat : Int) - (lo.toNat : Int)) * 1000
  0 ≤ x ∧ x ≤ 1000 ∧
  (den = 0 → x = 0) ∧
  (den ≠ 0 → ∃ q : Int, (if 0 < den then q * den ≤ num ∧ num < (q + 1) * den else num ≤ q * den ∧ (q + 1) * den < num) ∧
    x = max 0 (min q 1000))

/-- The normalised values a command computes from the read that begins at its first sample. -/
def normalisedRead (s : State) : Five Int := normalise s (rawReadings s 0)

/-! ### The invariant -/

/-- The invariant of 10_state R39, with the clock line's idle level (R28) and what 40_pwm_controller R101 says of MODE and
PRESCALE once the block is initialised. (That a tick fits twelve bits and a bound ten is in their types.) -/
structure Inv (s : State) : Prop where
  lastPos : s.lastPos.toNat ≤ 4000
  clk : s.clkO = false
  mode : s.inited = true → s.mode = initialisedMode s.cfg
  prescale : s.inited = true → s.prescale = 11

end Sys2Proof.Machine
end

