-- ==== Sys2Proof/Certificates/Slice0/Obligations.lean ====
section
/-! DEFINITION. The statements about the block, for the provers. Each docstring names the rule of spec/ it formalises. -/

open Sys2Proof Sys2Proof.Machine

/-! ### Encoding -/

/-- 30_encoding R70 to R73, R77: decoding the word of a well-formed command gives the command back. -/
def Obligations.DecodeOfEncodeIsIdentity : Prop :=
  ∀ i : Instr, i.wellFormed = true → decode (encode i) = .ok i

/-- 30_encoding R76, R77: every legal word stands for one well-formed command, and is that command's word. -/
def Obligations.EncodeOfDecodeIsIdentity : Prop :=
  ∀ (w : Command) (i : Instr), decode w = .ok i → encode i = w ∧ i.wellFormed = true

/-- 30_encoding R84: a word selects a mnemonic iff `W & mask = match`; the patterns are disjoint; a word that matches none is
illegal. -/
def Obligations.DecodeAgreesWithMatchAndMask : Prop :=
  (∀ w : Command, ∀ r ∈ opcodeTable, r.selects w = true ↔ ∃ i, decode w = .ok i ∧ i.mnemonic = r.mnemonic) ∧
  (∀ w : Command, opcodeTable.Pairwise fun r q => ¬ (r.selects w = true ∧ q.selects w = true)) ∧
  (∀ w : Command, (∀ r ∈ opcodeTable, r.selects w = false) → ∃ e, decode w = .error e)

/-- 30_encoding R80: the example words of the assembler. -/
def Obligations.ExampleWordsDecode : Prop :=
  decode 0x010000000000 = .ok .init ∧ decode 0x020300000800 = .ok (.setch 3 0 2048) ∧
  decode 0x0307005A0000 = .ok (.srvang 7 90) ∧ decode 0x0601FFCE0000 = .ok (.runmot 1 (-50)) ∧
  decode 0x080300500002 = .ok (.drivefor (.named .right) 80 2) ∧ decode 0x090300000000 = .ok (.stopmot (.named .both))

/-- 30_encoding R76, R77: exactly the words R76 calls illegal are not decoded, and accepting one changes no state, produces no
event, does not initialise and answers ILLEGAL with zeros. -/
def Obligations.IllegalWordHasNoEffect : Prop :=
  (∀ w : Command, (∃ e, decode w = .error e) ↔ IllegalWord w) ∧
  ∀ (s : State) (w : Command) (rest : List Command), s.rst = .low → s.cmds = w :: rest → IllegalWord w →
    step s = .next { s with cmds := rest, rsp := some illegalResponse }

/-! ### The step -/

/-- 10_state R33, 30_encoding R78: a word that decodes is executed, in the state in which it has been taken from the host
and the response before it is gone. The form of the command port is the model's choice, entry 4. -/
def Obligations.StepRunsTheDecodedCommand : Prop :=
  ∀ (s : State) (w : Command) (rest : List Command) (i : Instr), s.rst = .low → s.cmds = w :: rest → decode w = .ok i →
    i.wellFormed = true → step s = exec i { s with cmds := rest, rsp := none }

/-- 60_exceptions R198, 10_state R34: idleness changes no state; only `rsp_valid` falls. One step stands for one idle cycle:
the model's choice, entries 6 and 8. -/
def Obligations.IdleStepKeepsTheState : Prop :=
  ∀ s : State, s.rst = .low → s.cmds = [] → step s = .next { s with rsp := none }

/-- 10_state R33, R34, 30_encoding R75: an accepted command ends with one response, the ports then carry it with the status
codes OK 0, IGNORED 1 and ILLEGAL 2, and the commands after it are still to come, in order. The forms of the command port and
of the response are the model's choice, entries 4 and 6. -/
def Obligations.AcceptedCommandGetsOneResponse : Prop :=
  ∀ (s : State) (w : Command) (rest : List Command), s.rst = .low → s.cmds = w :: rest →
    ∃ (t : State) (r : Response), step s = .next t ∧ t.rsp = some r ∧ t.cmds = rest ∧
      t.rspValid = true ∧ t.rspResults = some r.r ∧ (r.status = .ok → t.rspStatus = some 0) ∧
      (r.status = .ignored → t.rspStatus = some 1) ∧ (r.status = .illegal → t.rspStatus = some 2)

/-- 60_exceptions R185, R187: no step, from any state, ends in a fault or a refusal. -/
def Obligations.NoStepStops : Prop := ∀ s : State, ∃ t, step s = .next t

/-! ### Initialisation -/

/-- 40_pwm_controller R101: the state after the first initialisation; the literal value of MODE is that of the numbers of R8. -/
def Obligations.FirstInitialisationState : Prop :=
  ∀ s : State, s.inited = false →
    ∃ t, exec .init s = .next t ∧ t.inited = true ∧
      t.mode = s.cfg.modeResetVal ||| s.cfg.modeRestart ||| s.cfg.modeAi ∧
      (s.cfg.hasR8Numbers = true → t.mode = 0xA0) ∧ t.prescale = 11 ∧
      t.ch s.cfg.gateCh = some ⟨0, 4095⟩ ∧ (∀ ch ≤ 15, ch ≠ s.cfg.gateCh.val → t.ch ch = some ⟨0, 0⟩) ∧
      t.calMin = s.calMin ∧ t.calMax = s.calMax ∧ t.lastPos = s.lastPos ∧ t.clkO = s.clkO ∧ t.addrO = s.addrO ∧
      t.rsp = some okResponse

/-- 40_pwm_controller R92, R95: the 23 events of the initialisation, in order; everything it leaves alone; and that INIT is the
initialisation and its response. -/
def Obligations.InitialisationEvents : Prop :=
  ∀ s : State, s.inited = false →
    ∃ t, exec .init s = .next t ∧ t = { s.afterInit with rsp := some okResponse } ∧
      Emits (initEvents s.cfg) s t ∧ (initEvents s.cfg).length = 23 ∧
      t.calMin = s.calMin ∧ t.calMax = s.calMax ∧ t.lastPos = s.lastPos ∧ t.clkO = s.clkO ∧ t.addrO = s.addrO ∧
      t.cmds = s.cmds ∧ t.rst = s.rst ∧ t.din = s.din ∧ t.dinCount = s.dinCount ∧ t.resetCount = s.resetCount ∧
      t.cfg = s.cfg

/-- 40_pwm_controller R90: INIT once initialised does nothing and returns OK. -/
def Obligations.SecondInitDoesNothing : Prop :=
  ∀ s : State, s.inited = true → exec .init s = .next { s with rsp := some okResponse }

/-- 40_pwm_controller R100, R91, 70_reset_and_hazards R209: every command but GETMAX and GETMIN initialises, its events then
begin with the 23 of the sequence, and once initialised it produces none of them again. -/
def Obligations.SelfInitialisingSet : Prop :=
  (∀ (i : Instr) (s : State), i ≠ .getmax → i ≠ .getmin →
    ∃ t, exec i s = .next t ∧ t.inited = true ∧ (s.inited = false → ∃ es, Emits (initEvents s.cfg ++ es) s t)) ∧
  (∀ (i : Instr) (s : State), i = .getmax ∨ i = .getmin →
    ∃ t, exec i s = .next t ∧ t.inited = s.inited ∧ Emits [] s t) ∧
  (∀ s : State, s.inited = true → s.afterInit = s)

/-! ### Channel writes and the outputs -/

/-- 40_pwm_controller R94: SETCH writes one channel's pair, or is IGNORED; either way the initialisation comes first. -/
def Obligations.SetchWritesOneChannel : Prop :=
  ∀ (s : State) (ch : Byte) (on off : Tick),
    (ch.toNat ≤ 15 → ∃ t, exec (.setch ch on off) s = .next t ∧ t.rsp = some okResponse ∧
      t.ch ch.toNat = some ⟨on, off⟩ ∧
      Emits [channelEvent s.cfg ch.toNat on off] s.afterInit t ∧
      SameRegisters s.afterInit t ∧ SameChannelsExcept [ch.toNat] s.afterInit t) ∧
    (15 < ch.toNat → exec (.setch ch on off) s = .next { s.afterInit with rsp := some ignoredResponse })

/-- 20_memory R53, R55, R56, 40_pwm_controller R93: the four bytes of a channel write, where they go and what the bus shows
afterwards, no other address showing anything new; outside 0..15 a channel write does nothing. These rules write the address
CH_BASE + 4*ch; that the 4 is the parameter CH_STRIDE of 00_scope R8, at least 4 in well-formed parameters, is the model's
choice, entry 2 (DEDUCED), and the view of the bus is the model's, entry 3. -/
def Obligations.ChannelWriteBytes : Prop :=
  ∀ (s : State) (ch : Nat) (on off : Tick),
    (s.cfg.wf = true → ch ≤ 15 →
      ∃ b0 b1 b2 b3 : Byte, ∃ a0 a1 a2 a3 : BitVec 8,
        b0.toNat = on.toNat % 256 ∧ b1.toNat = on.toNat / 256 ∧ b2.toNat = off.toNat % 256 ∧ b3.toNat = off.toNat / 256 ∧
        a0.toNat = s.cfg.chBase.toNat + s.cfg.chStride * ch ∧ a1.toNat = a0.toNat + 1 ∧ a2.toNat = a0.toNat + 2 ∧
        a3.toNat = a0.toNat + 3 ∧
        (chWrite ch on off s).events = s.events ++ [.bw4 a0 b0 b1 b2 b3] ∧
        (chWrite ch on off s).busByte a0 = some b0 ∧ (chWrite ch on off s).busByte a1 = some b1 ∧
        (chWrite ch on off s).busByte a2 = some b2 ∧ (chWrite ch on off s).busByte a3 = some b3 ∧
        ∀ a, a ≠ a0 → a ≠ a1 → a ≠ a2 → a ≠ a3 → (chWrite ch on off s).busByte a = s.busByte a) ∧
    (15 < ch → chWrite ch on off s = s)

/-- 40_pwm_controller R96: the duty window, in its three cases; before the first initialisation the level is any. The phase and
that level are arguments by the model's choice, entry 9. -/
def Obligations.DutyWindowCases : Prop :=
  ∀ (s : State) (i : Fin 16) (t : Tick) (free : Bool),
    (s.inited = false → s.pwmOut i t free = free) ∧
    ∀ on off : Tick, s.inited = true → s.ch i = some ⟨on, off⟩ →
      (on.toNat < off.toNat → (s.pwmOut i t free = true ↔ on.toNat ≤ t.toNat ∧ t.toNat < off.toNat)) ∧
      (on = off → s.pwmOut i t free = false) ∧
      (off.toNat < on.toNat → (s.pwmOut i t free = true ↔ on.toNat ≤ t.toNat ∨ t.toNat < off.toNat))

/-- 40_pwm_controller R99: a channel set fully on is low for one tick of 4096. -/
def Obligations.FullyOnMissesOneTick : Prop :=
  ∀ (s : State) (i : Fin 16) (t : Tick) (free : Bool), s.inited = true →
    (setValue i 4095 s).pwmOut i t free = decide (t.toNat ≠ 4095)

/-! ### Actuators -/

/-- 41_actuators R111: SRVANG writes (0, tick), the tick nearest to `(10*deg + 600) * 4096 / 20000`, or is IGNORED. -/
def Obligations.SrvangSetsServoTick : Prop :=
  ∀ (s : State) (ch : Byte) (deg : Half),
    (deg.toNat ≤ 180 → ch.toNat ≤ 15 →
      ∃ (t : State) (tick : Tick), exec (.srvang ch deg) s = .next t ∧ t.rsp = some okResponse ∧
        2 * ((deg.toNat * 10 + 600) * 4096) < (2 * tick.toNat + 1) * 20000 ∧
        (2 * tick.toNat) * 20000 < 2 * ((deg.toNat * 10 + 600) * 4096) + 20000 ∧
        t.ch ch.toNat = some ⟨0, tick⟩ ∧
        Emits [channelEvent s.cfg ch.toNat 0 tick] s.afterInit t ∧
        SameRegisters s.afterInit t ∧ SameChannelsExcept [ch.toNat] s.afterInit t) ∧
    (180 < deg.toNat ∨ 15 < ch.toNat →
      exec (.srvang ch deg) s = .next { s.afterInit with rsp := some ignoredResponse })

/-- 41_actuators R112: SRVPLS writes (0, tick), the tick nearest to `us * 4096 / 20000`, or is IGNORED; `SRVANG ch, d` equals
`SRVPLS ch, 10*d + 600`. -/
def Obligations.SrvplsSetsServoTick : Prop :=
  ∀ (s : State) (ch : Byte) (us : Half),
    (500 ≤ us.toNat → us.toNat ≤ 2500 → ch.toNat ≤ 15 →
      ∃ (t : State) (tick : Tick), exec (.srvpls ch us) s = .next t ∧ t.rsp = some okResponse ∧
        2 * (us.toNat * 4096) < (2 * tick.toNat + 1) * 20000 ∧
        (2 * tick.toNat) * 20000 < 2 * (us.toNat * 4096) + 20000 ∧
        t.ch ch.toNat = some ⟨0, tick⟩ ∧
        Emits [channelEvent s.cfg ch.toNat 0 tick] s.afterInit t ∧
        SameRegisters s.afterInit t ∧ SameChannelsExcept [ch.toNat] s.afterInit t) ∧
    (us.toNat < 500 ∨ 2500 < us.toNat ∨ 15 < ch.toNat →
      exec (.srvpls ch us) s = .next { s.afterInit with rsp := some ignoredResponse }) ∧
    (∀ deg : Half, deg.toNat ≤ 180 → us.toNat = 10 * deg.toNat + 600 → exec (.srvang ch deg) s = exec (.srvpls ch us) s)

/-- 41_actuators R120: the servo tick is monotone in the pulse width, runs from 102 to 512, and is never a tie. -/
def Obligations.ServoTickMonotone : Prop :=
  ∀ us vs : Nat, 500 ≤ us → us ≤ vs → vs ≤ 2500 →
    102 ≤ (servoTick us).toNat ∧ (servoTick us).toNat ≤ (servoTick vs).toNat ∧ (servoTick vs).toNat ≤ 512 ∧
    (600 ≤ us → 123 ≤ (servoTick us).toNat) ∧ (vs ≤ 2400 → (servoTick vs).toNat ≤ 492) ∧
    ∀ n : Nat, 2 * (us * 4096) ≠ (2 * n + 1) * 20000

/-- 41_actuators R113: SETLED writes (0, clamp(4*level, 0, 4095)) to channel 10 + id, or is IGNORED. -/
def Obligations.SetledScalesTheLevel : Prop :=
  ∀ (s : State) (id : Byte) (level : Half),
    (1 ≤ id.toNat → id.toNat ≤ 5 →
      ∃ (t : State) (tick : Tick), exec (.setled id level) s = .next t ∧ t.rsp = some okResponse ∧
        (tick.toNat : Int) = max 0 (min (level.toInt * 4) 4095) ∧
        t.ch (10 + id.toNat) = some ⟨0, tick⟩ ∧
        Emits [channelEvent s.cfg (10 + id.toNat) 0 tick] s.afterInit t ∧
        SameRegisters s.afterInit t ∧ SameChannelsExcept [10 + id.toNat] s.afterInit t) ∧
    (id.toNat < 1 ∨ 5 < id.toNat →
      exec (.setled id level) s = .next { s.afterInit with rsp := some ignoredResponse })

/-- 41_actuators R114, R115: RUNMOT sets one motor's three channels, in order, or is IGNORED. -/
def Obligations.RunmotSetsOneMotor : Prop :=
  ∀ (s : State) (id : Byte) (speed : Half),
    (∀ m : Motor, id.toNat = (match m with | .m1 => 1 | .m2 => 2) →
      ∃ t, exec (.runmot id speed) s = .next t ∧ t.rsp = some okResponse ∧
        (s.cfg.wf = true → MotorRuns m speed.toInt t) ∧
        Emits (runEvents s.cfg m speed.toInt) s.afterInit t ∧
        SameRegisters s.afterInit t ∧ SameChannelsExcept (writtenByMotor s.cfg m) s.afterInit t) ∧
    (id.toNat ≠ 1 → id.toNat ≠ 2 →
      exec (.runmot id speed) s = .next { s.afterInit with rsp := some ignoredResponse })

/-- 41_actuators R116, R117: DRIVE gives each motor the speed of its direction, motor 1 first, or is IGNORED. -/
def Obligations.DriveSetsBothMotors : Prop :=
  ∀ (s : State) (speed : Half),
    (∀ (dir : Dir) (v1 v2 : Int),
      (match dir with
        | .fwd => v1 = speed.toInt ∧ v2 = speed.toInt
        | .back => v1 = -speed.toInt ∧ v2 = -speed.toInt
        | .right => if s.cfg.turnRightM1Fwd = true then v1 = speed.toInt ∧ v2 = -speed.toInt
            else v1 = -speed.toInt ∧ v2 = speed.toInt
        | .left => if s.cfg.turnRightM1Fwd = true then v1 = -speed.toInt ∧ v2 = speed.toInt
            else v1 = speed.toInt ∧ v2 = -speed.toInt
        | .stop => v1 = 0 ∧ v2 = 0) →
      ∃ t, exec (.drive (.named dir) speed) s = .next t ∧ t.rsp = some okResponse ∧
        (s.cfg.wf = true → MotorRuns .m1 v1 t ∧ MotorRuns .m2 v2 t) ∧
        Emits (runEvents s.cfg .m1 v1 ++ runEvents s.cfg .m2 v2) s.afterInit t ∧
        SameRegisters s.afterInit t ∧
        SameChannelsExcept (writtenByMotor s.cfg .m1 ++ writtenByMotor s.cfg .m2) s.afterInit t) ∧
    (∀ code : Byte, exec (.drive (.outside code) speed) s = .next { s.afterInit with rsp := some ignoredResponse })

/-- 41_actuators R118: DRIVEFOR drives, waits `seconds * 1000000` microseconds and stops; the motors end stopped whatever the
direction and speed; a direction outside the domain does nothing at all. -/
def Obligations.DriveforWaitsAndStops : Prop :=
  ∀ (s : State) (speed seconds : Half),
    (∀ dir : Dir, ∃ (t u : State) (es : List Event), exec (.drivefor (.named dir) speed seconds) s = .next t ∧
      exec (.drive (.named dir) speed) s = .next u ∧ Emits es s.afterInit u ∧ es.length = 6 ∧
      t.rsp = some okResponse ∧ (s.cfg.wf = true → MotorRuns .m1 0 t ∧ MotorRuns .m2 0 t) ∧
      Emits (es ++ [.wait (seconds.toNat * 1000000)] ++ runEvents s.cfg .m1 0 ++ runEvents s.cfg .m2 0) s.afterInit t ∧
      SameRegisters s.afterInit t ∧
      SameChannelsExcept (writtenByMotor s.cfg .m1 ++ writtenByMotor s.cfg .m2) s.afterInit t) ∧
    (∀ code : Byte,
      exec (.drivefor (.outside code) speed seconds) s = .next { s.afterInit with rsp := some ignoredResponse })

/-- 41_actuators R119: STOPMOT gives each selected motor speed 0, motor 1 first, or is IGNORED; `STOPMOT BOTH` has the same
effect and the same events as `DRIVE STOP, v` for any `v`. -/
def Obligations.StopmotStopsTheSelected : Prop :=
  ∀ s : State,
    (∀ m : Motor, ∃ t, exec (.stopmot (.named (match m with | .m1 => .m1 | .m2 => .m2))) s = .next t ∧
      t.rsp = some okResponse ∧ (s.cfg.wf = true → MotorRuns m 0 t) ∧ Emits (runEvents s.cfg m 0) s.afterInit t ∧
      SameRegisters s.afterInit t ∧ SameChannelsExcept (writtenByMotor s.cfg m) s.afterInit t) ∧
    (∃ t, exec (.stopmot (.named .both)) s = .next t ∧ t.rsp = some okResponse ∧
      (s.cfg.wf = true → MotorRuns .m1 0 t ∧ MotorRuns .m2 0 t) ∧
      Emits (runEvents s.cfg .m1 0 ++ runEvents s.cfg .m2 0) s.afterInit t ∧
      SameRegisters s.afterInit t ∧
      SameChannelsExcept (writtenByMotor s.cfg .m1 ++ writtenByMotor s.cfg .m2) s.afterInit t) ∧
    (∀ code : Byte, exec (.stopmot (.outside code)) s = .next { s.afterInit with rsp := some ignoredResponse }) ∧
    (∀ v : Half, exec (.stopmot (.named .both)) s = exec (.drive (.named .stop) v) s)

/-- 41_actuators R116: driving forward at the negated speed is driving backward; LEFT at the negated speed is RIGHT. -/
def Obligations.NegatedSpeedMirrorsDirection : Prop :=
  ∀ (s : State) (v w : Half), w.toInt = -v.toInt →
    exec (.drive (.named .fwd) w) s = exec (.drive (.named .back) v) s ∧
    exec (.drive (.named .left) w) s = exec (.drive (.named .right) v) s

/-! ### The sensor link -/

/-- 42_line_sensor R134, R136, R138, R140: RDRAW returns the readings of cycles 1 to 5, most significant bit first, what it
leaves, and that the events of the read come after those of any initialisation. That the bits are
those the data line lists, in order, and past the list free values, is the model's choice, entry 5. -/
def Obligations.RdrawReturnsTheReadings : Prop :=
  ∀ s : State, ∃ (t : State) (r : Five Half), exec .rdraw s = .next t ∧ t.rsp = some ⟨.ok, r⟩ ∧
    (∀ i : Fin 5, (r.get i).toNat =
      ((List.range 10).map fun k => (dinBit s (10 * (i.val + 1) + k)).toNat * 2 ^ (9 - k)).sum ∧
      (r.get i).toNat ≤ 1023) ∧
    (∀ (n : Nat) (b : Bool), s.din[n]? = some b → dinBit s n = b) ∧
    t.lastPos = s.lastPos ∧ ReadLeaves s.afterInit t ∧ Emits (readEvents s 0) s.afterInit t

/-- 42_line_sensor R131, R132, R133, R135, R137: the 327 events of a read, in order, whatever the bits. -/
def Obligations.RdrawEventsInOrder : Prop :=
  ∀ s : State, ∃ t, exec .rdraw s = .next t ∧ Emits (readEvents s 0) s.afterInit t ∧
    (readEvents s 0).length = 327 ∧ (readEvents s 0).countP isSample = 60

/-- 42_line_sensor R136, R138: the ten bits of cycle 0 never influence a result. -/
def Obligations.DiscardedBitsDoNotMatter : Prop :=
  ∀ (s : State) (d e rest : List Bool), d.length = 10 → e.length = 10 →
    ∀ i ∈ [Instr.rdraw, Instr.rdcal, Instr.rdpos],
      ∃ t u, exec i { s with din := d ++ rest } = .next t ∧ exec i { s with din := e ++ rest } = .next u ∧
        t.rsp = u.rsp ∧ t.lastPos = u.lastPos

/-! ### The calibrator -/

/-- 43_calibrator R156: GETMAX returns the five maxima, changes nothing else and produces no event. -/
def Obligations.GetmaxReturnsTheMaxima : Prop :=
  ∀ s : State, ∃ r : Five Half, exec .getmax s = .next { s with rsp := some ⟨.ok, r⟩ } ∧
    ∀ i : Fin 5, (r.get i).toNat = (s.calMax.get i).toNat

/-- 43_calibrator R157: GETMIN returns the five minima, changes nothing else and produces no event. -/
def Obligations.GetminReturnsTheMinima : Prop :=
  ∀ s : State, ∃ r : Five Half, exec .getmin s = .next { s with rsp := some ⟨.ok, r⟩ } ∧
    ∀ i : Fin 5, (r.get i).toNat = (s.calMin.get i).toNat

/-- 43_calibrator R150 to R155: CALIB ends with the ranges of a hundred conservative merges and the motors stopped; its 164,206
events come after those of any initialisation, for each iteration the drive of its direction, five whole reads and the steering
wait, and in the end the stop; everything else is as it was but for what its reads leave. -/
def Obligations.CalibMergesConservatively : Prop :=
  ∀ s : State, ∃ t, exec .calib s = .next t ∧ t.rsp = some okResponse ∧
    Emits (calEvents s) s.afterInit t ∧ (calEvents s).length = 164206 ∧
    (∀ i : Fin 5, (t.calMax.get i).toNat = runningMax s i 100 ∧ (t.calMin.get i).toNat = runningMin s i 100) ∧
    (s.cfg.wf = true → MotorRuns .m1 0 t ∧ MotorRuns .m2 0 t ∧ t.ch s.cfg.gateCh = some ⟨0, 4095⟩) ∧
    t.inited = true ∧ t.mode = s.afterInit.mode ∧ t.prescale = s.afterInit.prescale ∧ t.lastPos = s.lastPos ∧
    t.clkO = false ∧ t.addrO = true ∧ t.cmds = s.cmds ∧ t.rst = s.rst ∧
    t.din = s.din.drop 30000 ∧ t.dinCount = s.dinCount + 30000 ∧ t.resetCount = s.resetCount ∧
    t.cfg = s.cfg ∧
    SameChannelsExcept (writtenByMotor s.cfg .m1 ++ writtenByMotor s.cfg .m2 ++ [s.cfg.gateCh.val]) s.afterInit t

/-- 43_calibrator R158: after CALIB each maximum is the largest iteration minimum and each minimum the smallest iteration
maximum. -/
def Obligations.CalibClosedForm : Prop :=
  ∀ s : State, ∃ t, exec .calib s = .next t ∧ ∀ i : Fin 5,
    ((∀ k < 100, itMinOf s i k ≤ (t.calMax.get i).toNat) ∧ ∃ k < 100, (t.calMax.get i).toNat = itMinOf s i k) ∧
    ((∀ k < 100, (t.calMin.get i).toNat ≤ itMaxOf s i k) ∧ ∃ k < 100, (t.calMin.get i).toNat = itMaxOf s i k)

/-- 43_calibrator R158 (1): a sensor that reads the same value in every sample ends with equal bounds. -/
def Obligations.FlatSensorGivesEqualBounds : Prop :=
  ∀ (s : State) (i : Fin 5) (v : Nat), (∀ k < 100, ∀ j < 5, calReading s k j i = v) →
    ∃ t, exec .calib s = .next t ∧ (t.calMax.get i).toNat = v ∧ (t.calMin.get i).toNat = v

/-! ### The normalizer and the position -/

/-- 44_position R166, R167, R168, R169: RDCAL returns the five normalised values of one fresh read, each in [0,1000]. -/
def Obligations.RdcalReturnsNormalisedValues : Prop :=
  ∀ s : State, ∃ (t : State) (r : Five Half), exec .rdcal s = .next t ∧ t.rsp = some ⟨.ok, r⟩ ∧
    (∀ i : Fin 5, ∃ raw : Reading, raw.toNat = rawValue s 0 i ∧
      IsNorm (s.calMin.get i) (s.calMax.get i) raw ((r.get i).toNat : Int)) ∧
    t.lastPos = s.lastPos ∧ ReadLeaves s.afterInit t ∧ Emits (readEvents s 0) s.afterInit t

/-- 44_position R170, R172, R175: with the line detected, RDPOS returns the weighted mean rounded down and stores it. -/
def Obligations.RdposReturnsTheWeightedMean : Prop :=
  ∀ (s : State) (x : Five Int), x = normalisedRead s → (∃ i : Fin 5, 200 < 1000 - x.get i) →
    ∃ (t : State) (pos sum wsum : Nat), exec .rdpos s = .next t ∧
      (sum : Int) = ((List.finRange 5).map fun i => if 50 < 1000 - x.get i then 1000 - x.get i else 0).sum ∧
      (wsum : Int) = ((List.finRange 5).map fun i =>
        if 50 < 1000 - x.get i then (1000 - x.get i) * (i.val * 1000 : Nat) else 0).sum ∧
      0 < sum ∧ pos * sum ≤ wsum ∧ wsum < (pos + 1) * sum ∧
      t.rsp = some ⟨.ok, ⟨BitVec.ofNat 16 pos, 0, 0, 0, 0⟩⟩ ∧ pos < 2 ^ 16 ∧ t.lastPos.toNat = pos ∧
      ReadLeaves s.afterInit t ∧ Emits (readEvents s 0) s.afterInit t

/-- 44_position R170, R171: with no line detected, RDPOS returns the extreme last seen and does not store it. -/
def Obligations.RdposFallsBackToAnExtreme : Prop :=
  ∀ (s : State) (x : Five Int), x = normalisedRead s → (∀ i : Fin 5, 1000 - x.get i ≤ 200) →
    ∃ t, exec .rdpos s = .next t ∧
      t.rsp = some ⟨.ok, ⟨if s.lastPos.toNat < 2000 then 0 else 4000, 0, 0, 0, 0⟩⟩ ∧ t.lastPos = s.lastPos ∧
      ReadLeaves s.afterInit t ∧ Emits (readEvents s 0) s.afterInit t

/-- 44_position R173: the position is in [0,4000], and a sensor that alone contributes gives exactly its weight. -/
def Obligations.PositionIsBounded : Prop :=
  (∀ s : State, ∃ (t : State) (pos : Half), exec .rdpos s = .next t ∧ t.rsp = some ⟨.ok, ⟨pos, 0, 0, 0, 0⟩⟩ ∧
    pos.toNat ≤ 4000 ∧ (s.lastPos.toNat ≤ 4000 → t.lastPos.toNat ≤ 4000)) ∧
  ∀ (s : State) (x : Five Int) (i : Fin 5), x = normalisedRead s → 200 < 1000 - x.get i →
    (∀ j : Fin 5, j ≠ i → 1000 - x.get j ≤ 50) →
    ∃ t, exec .rdpos s = .next t ∧ t.lastPos.toNat = i.val * 1000

/-! ### Rules of the whole machine -/

/-- 44_position R175, 70_reset_and_hazards R223: no command but RDPOS writes LAST_POS. -/
def Obligations.OnlyRdposWritesLastPos : Prop :=
  ∀ (i : Instr) (s : State), i ≠ .rdpos → ∃ t, exec i s = .next t ∧ t.lastPos = s.lastPos

/-- 10_state R26: no command but CALIB writes the calibration ranges. -/
def Obligations.OnlyCalibWritesRanges : Prop :=
  ∀ (i : Instr) (s : State), i ≠ .calib → ∃ t, exec i s = .next t ∧ t.calMin = s.calMin ∧ t.calMax = s.calMax

/-- 10_state R28, R40: only the commands that read sensors move the link's lines or spend data-line samples. -/
def Obligations.OnlyReadsMoveTheLink : Prop :=
  ∀ (i : Instr) (s : State), i ≠ .rdraw → i ≠ .calib → i ≠ .rdcal → i ≠ .rdpos →
    ∃ t, exec i s = .next t ∧ t.clkO = s.clkO ∧ t.addrO = s.addrO ∧ t.din = s.din ∧ t.dinCount = s.dinCount

/-- 40_pwm_controller R101: MODE and PRESCALE never change again before the next reset. -/
def Obligations.ModeAndPrescaleStay : Prop :=
  ∀ (i : Instr) (s : State), s.inited = true →
    ∃ t, exec i s = .next t ∧ t.mode = s.mode ∧ t.prescale = s.prescale ∧ t.inited = true

/-- 10_state R36, 70_reset_and_hazards R207: a step only adds to the trace, a reset included. That the trace is held in
State is the model's choice, entry 6. -/
def Obligations.TraceOnlyGrows : Prop :=
  ∀ s t : State, step s = .next t → ∃ es, Emits es s t

/-- 60_exceptions R199: no step changes the parameters. That they are held in State is the model's choice, entry 1. -/
def Obligations.ParametersNeverChange : Prop :=
  ∀ s t : State, step s = .next t → t.cfg = s.cfg

/-! ### Reset and the invariant -/

/-- 10_state R37: the values R37 gives. Of the channels, MODE and PRESCALE, which R37 leaves unspecified, nothing is said: they
hold free values, entry 3. -/
def Obligations.ResetValues : Prop :=
  State.reset.inited = false ∧ (∀ i : Fin 5, State.reset.calMin.get i = 100 ∧ State.reset.calMax.get i = 650) ∧
  State.reset.lastPos = 0 ∧ State.reset.clkO = false ∧ State.reset.addrO = false ∧ State.reset.rspValid = false ∧
  State.reset.busy = false

/-- 70_reset_and_hazards R205, 10_state R38: a reset with no command under way gives the values of R37 whatever the state was;
the offered commands, the data line, the parameters and the trace are outside the block's state and stay. The form of the
reset input is the model's choice, entry 7; the values of the channels, MODE and PRESCALE are free, entry 3. -/
def Obligations.IdleResetRestoresDefaults : Prop :=
  ∀ s : State, (s.rst = .idle ∨ ∃ n, s.rst = .during n ∧ s.cmds = []) →
    ∃ (cs : Vector Channel 16) (m p : Byte), step s = .next { State.reset with
      chs := cs, mode := m, prescale := p, cmds := s.cmds, din := s.din, dinCount := s.dinCount,
      resetCount := s.resetCount + 1, trace := s.trace, cfg := s.cfg }

/-- 70_reset_and_hazards R207: a reset after `n` events of a command leaves those events and the samples they spent, no
further event, no response, and the state of R37. Saying the moment by a count of events, and what happens to the inputs,
are the model's choice, entry 7; the values of the channels, MODE and PRESCALE are free, entry 3. -/
def Obligations.ResetAbandonsTheCommand : Prop :=
  ∀ (s : State) (n : Nat) (w : Command) (rest : List Command), s.rst = .during n → s.cmds = w :: rest →
    ∃ (u : State) (es : List Event) (cs : Vector Channel 16) (m p : Byte),
      step { s with rst := .low } = .next u ∧ Emits es s u ∧
      step s = .next { State.reset with
        chs := cs, mode := m, prescale := p, cmds := rest, din := s.din.drop ((es.take n).countP isSample),
        dinCount := s.dinCount + (es.take n).countP isSample, resetCount := s.resetCount + 1,
        trace := (es.take n).reverse ++ s.trace, cfg := s.cfg }

/-- 10_state R39: the reset state meets the invariant. -/
def Obligations.ResetMeetsInvariant : Prop := Inv State.reset

/-- 10_state R39, R28, 40_pwm_controller R101: every step keeps the invariant. -/
def Obligations.StepKeepsInvariant : Prop := ∀ s t : State, Inv s → step s = .next t → Inv t

/-! ### The register file -/

/-- 20_memory R51, R55, R58: the bytes the register file shows at the mapped addresses, high nibbles zero, and nothing at an
unmapped one. R51 writes the addresses CH_BASE + 4*ch + k; that the 4 is the parameter CH_STRIDE of 00_scope R8 is the model's
choice, entry 2 (DEDUCED). That the view has a byte at every mapped address, before the first initialisation too, and none at
an unmapped one is the model's choice, entry 3. -/
def Obligations.BusShowsTheRegisters : Prop :=
  ∀ s : State, s.cfg.wf = true →
    s.busByte s.cfg.modeReg = some s.mode ∧ s.busByte s.cfg.prescaleReg = some s.prescale ∧
    (∀ (i : Fin 16) (k : Fin 4) (a : BitVec 8), a.toNat = s.cfg.chBase.toNat + s.cfg.chStride * i.val + k.val →
      ∃ (c : Channel) (b : Byte), s.ch i = some c ∧ s.busByte a = some b ∧
        b.toNat = (match k with
          | 0 => c.on.toNat % 256
          | 1 => c.on.toNat / 256
          | 2 => c.off.toNat % 256
          | 3 => c.off.toNat / 256)) ∧
    ∀ a : BitVec 8, s.busByte a = none ↔ a ≠ s.cfg.modeReg ∧ a ≠ s.cfg.prescaleReg ∧
      ∀ (i : Fin 16) (k : Fin 4), a.toNat ≠ s.cfg.chBase.toNat + s.cfg.chStride * i.val + k.val

/-- 10_state R37, 20_memory R54: what the channels, MODE and PRESCALE hold before the first initialisation never matters: a
command that initialises ends in the same state whatever it is, and GETMAX and GETMIN answer the same. -/
def Obligations.UnspecifiedRegistersAreNotRead : Prop :=
  ∀ (s : State) (cs : Vector Channel 16) (m p : Byte), s.inited = false →
    (∀ i : Instr, i ≠ .getmax → i ≠ .getmin →
      ∃ t, exec i s = .next t ∧ exec i { s with chs := cs, mode := m, prescale := p } = .next t) ∧
    (∀ i : Instr, i = .getmax ∨ i = .getmin →
      ∃ t, exec i s = .next t ∧
        exec i { s with chs := cs, mode := m, prescale := p } = .next { t with chs := cs, mode := m, prescale := p })
end

