-- ==== Sys2Proof/Laws/State.lean ====
section
/-! SUPPORT. What each field of the state is after each named update: one lemma a field and an update, true by
rfl (by cases on the register where an update names one). -/

namespace Sys2Proof.Machine

/-! ### emit -/

@[simp] theorem emit_inited (e : Event) (s : State) : (emit e s).inited = s.inited := rfl
@[simp] theorem emit_chs (e : Event) (s : State) : (emit e s).chs = s.chs := rfl
@[simp] theorem emit_mode (e : Event) (s : State) : (emit e s).mode = s.mode := rfl
@[simp] theorem emit_prescale (e : Event) (s : State) : (emit e s).prescale = s.prescale := rfl
@[simp] theorem emit_calMin (e : Event) (s : State) : (emit e s).calMin = s.calMin := rfl
@[simp] theorem emit_calMax (e : Event) (s : State) : (emit e s).calMax = s.calMax := rfl
@[simp] theorem emit_lastPos (e : Event) (s : State) : (emit e s).lastPos = s.lastPos := rfl
@[simp] theorem emit_clkO (e : Event) (s : State) : (emit e s).clkO = s.clkO := rfl
@[simp] theorem emit_addrO (e : Event) (s : State) : (emit e s).addrO = s.addrO := rfl
@[simp] theorem emit_cmds (e : Event) (s : State) : (emit e s).cmds = s.cmds := rfl
@[simp] theorem emit_rst (e : Event) (s : State) : (emit e s).rst = s.rst := rfl
@[simp] theorem emit_din (e : Event) (s : State) : (emit e s).din = s.din := rfl
@[simp] theorem emit_dinCount (e : Event) (s : State) : (emit e s).dinCount = s.dinCount := rfl
@[simp] theorem emit_resetCount (e : Event) (s : State) : (emit e s).resetCount = s.resetCount := rfl
@[simp] theorem emit_rsp (e : Event) (s : State) : (emit e s).rsp = s.rsp := rfl
@[simp] theorem emit_trace (e : Event) (s : State) : (emit e s).trace = e :: s.trace := rfl
@[simp] theorem emit_cfg (e : Event) (s : State) : (emit e s).cfg = s.cfg := rfl

/-! ### setByteReg -/

@[simp] theorem setByteReg_inited (r : ByteReg) (v : Byte) (s : State) :
    (setByteReg r v s).inited = s.inited := by cases r <;> rfl
@[simp] theorem setByteReg_chs (r : ByteReg) (v : Byte) (s : State) : (setByteReg r v s).chs = s.chs := by cases r <;> rfl
@[simp] theorem setByteReg_mode (r : ByteReg) (v : Byte) (s : State) :
    (setByteReg r v s).mode = if r = .mode then v else s.mode := by cases r <;> rfl
@[simp] theorem setByteReg_prescale (r : ByteReg) (v : Byte) (s : State) :
    (setByteReg r v s).prescale = if r = .prescale then v else s.prescale := by cases r <;> rfl
@[simp] theorem setByteReg_calMin (r : ByteReg) (v : Byte) (s : State) :
    (setByteReg r v s).calMin = s.calMin := by cases r <;> rfl
@[simp] theorem setByteReg_calMax (r : ByteReg) (v : Byte) (s : State) :
    (setByteReg r v s).calMax = s.calMax := by cases r <;> rfl
@[simp] theorem setByteReg_lastPos (r : ByteReg) (v : Byte) (s : State) :
    (setByteReg r v s).lastPos = s.lastPos := by cases r <;> rfl
@[simp] theorem setByteReg_clkO (r : ByteReg) (v : Byte) (s : State) : (setByteReg r v s).clkO = s.clkO := by cases r <;> rfl
@[simp] theorem setByteReg_addrO (r : ByteReg) (v : Byte) (s : State) :
    (setByteReg r v s).addrO = s.addrO := by cases r <;> rfl
@[simp] theorem setByteReg_cmds (r : ByteReg) (v : Byte) (s : State) : (setByteReg r v s).cmds = s.cmds := by cases r <;> rfl
@[simp] theorem setByteReg_rst (r : ByteReg) (v : Byte) (s : State) : (setByteReg r v s).rst = s.rst := by cases r <;> rfl
@[simp] theorem setByteReg_din (r : ByteReg) (v : Byte) (s : State) : (setByteReg r v s).din = s.din := by cases r <;> rfl
@[simp] theorem setByteReg_dinCount (r : ByteReg) (v : Byte) (s : State) :
    (setByteReg r v s).dinCount = s.dinCount := by cases r <;> rfl
@[simp] theorem setByteReg_resetCount (r : ByteReg) (v : Byte) (s : State) :
    (setByteReg r v s).resetCount = s.resetCount := by cases r <;> rfl
@[simp] theorem setByteReg_rsp (r : ByteReg) (v : Byte) (s : State) : (setByteReg r v s).rsp = s.rsp := by cases r <;> rfl
@[simp] theorem setByteReg_trace (r : ByteReg) (v : Byte) (s : State) :
    (setByteReg r v s).trace = s.trace := by cases r <;> rfl
@[simp] theorem setByteReg_cfg (r : ByteReg) (v : Byte) (s : State) : (setByteReg r v s).cfg = s.cfg := by cases r <;> rfl

/-! ### setCh -/

@[simp] theorem setCh_inited (ch : Nat) (c : Channel) (s : State) : (setCh ch c s).inited = s.inited := rfl
@[simp] theorem setCh_chs (ch : Nat) (c : Channel) (s : State) : (setCh ch c s).chs = s.chs.setIfInBounds ch c := rfl
@[simp] theorem setCh_mode (ch : Nat) (c : Channel) (s : State) : (setCh ch c s).mode = s.mode := rfl
@[simp] theorem setCh_prescale (ch : Nat) (c : Channel) (s : State) : (setCh ch c s).prescale = s.prescale := rfl
@[simp] theorem setCh_calMin (ch : Nat) (c : Channel) (s : State) : (setCh ch c s).calMin = s.calMin := rfl
@[simp] theorem setCh_calMax (ch : Nat) (c : Channel) (s : State) : (setCh ch c s).calMax = s.calMax := rfl
@[simp] theorem setCh_lastPos (ch : Nat) (c : Channel) (s : State) : (setCh ch c s).lastPos = s.lastPos := rfl
@[simp] theorem setCh_clkO (ch : Nat) (c : Channel) (s : State) : (setCh ch c s).clkO = s.clkO := rfl
@[simp] theorem setCh_addrO (ch : Nat) (c : Channel) (s : State) : (setCh ch c s).addrO = s.addrO := rfl
@[simp] theorem setCh_cmds (ch : Nat) (c : Channel) (s : State) : (setCh ch c s).cmds = s.cmds := rfl
@[simp] theorem setCh_rst (ch : Nat) (c : Channel) (s : State) : (setCh ch c s).rst = s.rst := rfl
@[simp] theorem setCh_din (ch : Nat) (c : Channel) (s : State) : (setCh ch c s).din = s.din := rfl
@[simp] theorem setCh_dinCount (ch : Nat) (c : Channel) (s : State) : (setCh ch c s).dinCount = s.dinCount := rfl
@[simp] theorem setCh_resetCount (ch : Nat) (c : Channel) (s : State) : (setCh ch c s).resetCount = s.resetCount := rfl
@[simp] theorem setCh_rsp (ch : Nat) (c : Channel) (s : State) : (setCh ch c s).rsp = s.rsp := rfl
@[simp] theorem setCh_trace (ch : Nat) (c : Channel) (s : State) : (setCh ch c s).trace = s.trace := rfl
@[simp] theorem setCh_cfg (ch : Nat) (c : Channel) (s : State) : (setCh ch c s).cfg = s.cfg := rfl

/-! ### setInited -/

@[simp] theorem setInited_inited (s : State) : (setInited s).inited = true := rfl
@[simp] theorem setInited_chs (s : State) : (setInited s).chs = s.chs := rfl
@[simp] theorem setInited_mode (s : State) : (setInited s).mode = s.mode := rfl
@[simp] theorem setInited_prescale (s : State) : (setInited s).prescale = s.prescale := rfl
@[simp] theorem setInited_calMin (s : State) : (setInited s).calMin = s.calMin := rfl
@[simp] theorem setInited_calMax (s : State) : (setInited s).calMax = s.calMax := rfl
@[simp] theorem setInited_lastPos (s : State) : (setInited s).lastPos = s.lastPos := rfl
@[simp] theorem setInited_clkO (s : State) : (setInited s).clkO = s.clkO := rfl
@[simp] theorem setInited_addrO (s : State) : (setInited s).addrO = s.addrO := rfl
@[simp] theorem setInited_cmds (s : State) : (setInited s).cmds = s.cmds := rfl
@[simp] theorem setInited_rst (s : State) : (setInited s).rst = s.rst := rfl
@[simp] theorem setInited_din (s : State) : (setInited s).din = s.din := rfl
@[simp] theorem setInited_dinCount (s : State) : (setInited s).dinCount = s.dinCount := rfl
@[simp] theorem setInited_resetCount (s : State) : (setInited s).resetCount = s.resetCount := rfl
@[simp] theorem setInited_rsp (s : State) : (setInited s).rsp = s.rsp := rfl
@[simp] theorem setInited_trace (s : State) : (setInited s).trace = s.trace := rfl
@[simp] theorem setInited_cfg (s : State) : (setInited s).cfg = s.cfg := rfl

/-! ### respond -/

@[simp] theorem respond_inited (st : Status) (r : Five Half) (s : State) : (respond st r s).inited = s.inited := rfl
@[simp] theorem respond_chs (st : Status) (r : Five Half) (s : State) : (respond st r s).chs = s.chs := rfl
@[simp] theorem respond_mode (st : Status) (r : Five Half) (s : State) : (respond st r s).mode = s.mode := rfl
@[simp] theorem respond_prescale (st : Status) (r : Five Half) (s : State) : (respond st r s).prescale = s.prescale := rfl
@[simp] theorem respond_calMin (st : Status) (r : Five Half) (s : State) : (respond st r s).calMin = s.calMin := rfl
@[simp] theorem respond_calMax (st : Status) (r : Five Half) (s : State) : (respond st r s).calMax = s.calMax := rfl
@[simp] theorem respond_lastPos (st : Status) (r : Five Half) (s : State) : (respond st r s).lastPos = s.lastPos := rfl
@[simp] theorem respond_clkO (st : Status) (r : Five Half) (s : State) : (respond st r s).clkO = s.clkO := rfl
@[simp] theorem respond_addrO (st : Status) (r : Five Half) (s : State) : (respond st r s).addrO = s.addrO := rfl
@[simp] theorem respond_cmds (st : Status) (r : Five Half) (s : State) : (respond st r s).cmds = s.cmds := rfl
@[simp] theorem respond_rst (st : Status) (r : Five Half) (s : State) : (respond st r s).rst = s.rst := rfl
@[simp] theorem respond_din (st : Status) (r : Five Half) (s : State) : (respond st r s).din = s.din := rfl
@[simp] theorem respond_dinCount (st : Status) (r : Five Half) (s : State) : (respond st r s).dinCount = s.dinCount := rfl
@[simp] theorem respond_resetCount (st : Status) (r : Five Half) (s : State) :
    (respond st r s).resetCount = s.resetCount := rfl
@[simp] theorem respond_rsp (st : Status) (r : Five Half) (s : State) : (respond st r s).rsp = some ⟨st, r⟩ := rfl
@[simp] theorem respond_trace (st : Status) (r : Five Half) (s : State) : (respond st r s).trace = s.trace := rfl
@[simp] theorem respond_cfg (st : Status) (r : Five Half) (s : State) : (respond st r s).cfg = s.cfg := rfl

/-! ### respondOk -/

@[simp] theorem respondOk_inited (s : State) : (respondOk s).inited = s.inited := rfl
@[simp] theorem respondOk_chs (s : State) : (respondOk s).chs = s.chs := rfl
@[simp] theorem respondOk_mode (s : State) : (respondOk s).mode = s.mode := rfl
@[simp] theorem respondOk_prescale (s : State) : (respondOk s).prescale = s.prescale := rfl
@[simp] theorem respondOk_calMin (s : State) : (respondOk s).calMin = s.calMin := rfl
@[simp] theorem respondOk_calMax (s : State) : (respondOk s).calMax = s.calMax := rfl
@[simp] theorem respondOk_lastPos (s : State) : (respondOk s).lastPos = s.lastPos := rfl
@[simp] theorem respondOk_clkO (s : State) : (respondOk s).clkO = s.clkO := rfl
@[simp] theorem respondOk_addrO (s : State) : (respondOk s).addrO = s.addrO := rfl
@[simp] theorem respondOk_cmds (s : State) : (respondOk s).cmds = s.cmds := rfl
@[simp] theorem respondOk_rst (s : State) : (respondOk s).rst = s.rst := rfl
@[simp] theorem respondOk_din (s : State) : (respondOk s).din = s.din := rfl
@[simp] theorem respondOk_dinCount (s : State) : (respondOk s).dinCount = s.dinCount := rfl
@[simp] theorem respondOk_resetCount (s : State) : (respondOk s).resetCount = s.resetCount := rfl
@[simp] theorem respondOk_rsp (s : State) : (respondOk s).rsp = some ⟨.ok, .all 0⟩ := rfl
@[simp] theorem respondOk_trace (s : State) : (respondOk s).trace = s.trace := rfl
@[simp] theorem respondOk_cfg (s : State) : (respondOk s).cfg = s.cfg := rfl

/-! ### respondIgnored -/

@[simp] theorem respondIgnored_inited (s : State) : (respondIgnored s).inited = s.inited := rfl
@[simp] theorem respondIgnored_chs (s : State) : (respondIgnored s).chs = s.chs := rfl
@[simp] theorem respondIgnored_mode (s : State) : (respondIgnored s).mode = s.mode := rfl
@[simp] theorem respondIgnored_prescale (s : State) : (respondIgnored s).prescale = s.prescale := rfl
@[simp] theorem respondIgnored_calMin (s : State) : (respondIgnored s).calMin = s.calMin := rfl
@[simp] theorem respondIgnored_calMax (s : State) : (respondIgnored s).calMax = s.calMax := rfl
@[simp] theorem respondIgnored_lastPos (s : State) : (respondIgnored s).lastPos = s.lastPos := rfl
@[simp] theorem respondIgnored_clkO (s : State) : (respondIgnored s).clkO = s.clkO := rfl
@[simp] theorem respondIgnored_addrO (s : State) : (respondIgnored s).addrO = s.addrO := rfl
@[simp] theorem respondIgnored_cmds (s : State) : (respondIgnored s).cmds = s.cmds := rfl
@[simp] theorem respondIgnored_rst (s : State) : (respondIgnored s).rst = s.rst := rfl
@[simp] theorem respondIgnored_din (s : State) : (respondIgnored s).din = s.din := rfl
@[simp] theorem respondIgnored_dinCount (s : State) : (respondIgnored s).dinCount = s.dinCount := rfl
@[simp] theorem respondIgnored_resetCount (s : State) : (respondIgnored s).resetCount = s.resetCount := rfl
@[simp] theorem respondIgnored_rsp (s : State) : (respondIgnored s).rsp = some ⟨.ignored, .all 0⟩ := rfl
@[simp] theorem respondIgnored_trace (s : State) : (respondIgnored s).trace = s.trace := rfl
@[simp] theorem respondIgnored_cfg (s : State) : (respondIgnored s).cfg = s.cfg := rfl

/-! ### respondIllegal -/

@[simp] theorem respondIllegal_inited (s : State) : (respondIllegal s).inited = s.inited := rfl
@[simp] theorem respondIllegal_chs (s : State) : (respondIllegal s).chs = s.chs := rfl
@[simp] theorem respondIllegal_mode (s : State) : (respondIllegal s).mode = s.mode := rfl
@[simp] theorem respondIllegal_prescale (s : State) : (respondIllegal s).prescale = s.prescale := rfl
@[simp] theorem respondIllegal_calMin (s : State) : (respondIllegal s).calMin = s.calMin := rfl
@[simp] theorem respondIllegal_calMax (s : State) : (respondIllegal s).calMax = s.calMax := rfl
@[simp] theorem respondIllegal_lastPos (s : State) : (respondIllegal s).lastPos = s.lastPos := rfl
@[simp] theorem respondIllegal_clkO (s : State) : (respondIllegal s).clkO = s.clkO := rfl
@[simp] theorem respondIllegal_addrO (s : State) : (respondIllegal s).addrO = s.addrO := rfl
@[simp] theorem respondIllegal_cmds (s : State) : (respondIllegal s).cmds = s.cmds := rfl
@[simp] theorem respondIllegal_rst (s : State) : (respondIllegal s).rst = s.rst := rfl
@[simp] theorem respondIllegal_din (s : State) : (respondIllegal s).din = s.din := rfl
@[simp] theorem respondIllegal_dinCount (s : State) : (respondIllegal s).dinCount = s.dinCount := rfl
@[simp] theorem respondIllegal_resetCount (s : State) : (respondIllegal s).resetCount = s.resetCount := rfl
@[simp] theorem respondIllegal_rsp (s : State) : (respondIllegal s).rsp = some ⟨.illegal, .all 0⟩ := rfl
@[simp] theorem respondIllegal_trace (s : State) : (respondIllegal s).trace = s.trace := rfl
@[simp] theorem respondIllegal_cfg (s : State) : (respondIllegal s).cfg = s.cfg := rfl

/-! ### wait -/

@[simp] theorem wait_inited (us : Nat) (s : State) : (wait us s).inited = s.inited := rfl
@[simp] theorem wait_chs (us : Nat) (s : State) : (wait us s).chs = s.chs := rfl
@[simp] theorem wait_mode (us : Nat) (s : State) : (wait us s).mode = s.mode := rfl
@[simp] theorem wait_prescale (us : Nat) (s : State) : (wait us s).prescale = s.prescale := rfl
@[simp] theorem wait_calMin (us : Nat) (s : State) : (wait us s).calMin = s.calMin := rfl
@[simp] theorem wait_calMax (us : Nat) (s : State) : (wait us s).calMax = s.calMax := rfl
@[simp] theorem wait_lastPos (us : Nat) (s : State) : (wait us s).lastPos = s.lastPos := rfl
@[simp] theorem wait_clkO (us : Nat) (s : State) : (wait us s).clkO = s.clkO := rfl
@[simp] theorem wait_addrO (us : Nat) (s : State) : (wait us s).addrO = s.addrO := rfl
@[simp] theorem wait_cmds (us : Nat) (s : State) : (wait us s).cmds = s.cmds := rfl
@[simp] theorem wait_rst (us : Nat) (s : State) : (wait us s).rst = s.rst := rfl
@[simp] theorem wait_din (us : Nat) (s : State) : (wait us s).din = s.din := rfl
@[simp] theorem wait_dinCount (us : Nat) (s : State) : (wait us s).dinCount = s.dinCount := rfl
@[simp] theorem wait_resetCount (us : Nat) (s : State) : (wait us s).resetCount = s.resetCount := rfl
@[simp] theorem wait_rsp (us : Nat) (s : State) : (wait us s).rsp = s.rsp := rfl
@[simp] theorem wait_trace (us : Nat) (s : State) : (wait us s).trace = .wait us :: s.trace := rfl
@[simp] theorem wait_cfg (us : Nat) (s : State) : (wait us s).cfg = s.cfg := rfl

/-! ### waitMs -/

@[simp] theorem waitMs_inited (ms : Nat) (s : State) : (waitMs ms s).inited = s.inited := rfl
@[simp] theorem waitMs_chs (ms : Nat) (s : State) : (waitMs ms s).chs = s.chs := rfl
@[simp] theorem waitMs_mode (ms : Nat) (s : State) : (waitMs ms s).mode = s.mode := rfl
@[simp] theorem waitMs_prescale (ms : Nat) (s : State) : (waitMs ms s).prescale = s.prescale := rfl
@[simp] theorem waitMs_calMin (ms : Nat) (s : State) : (waitMs ms s).calMin = s.calMin := rfl
@[simp] theorem waitMs_calMax (ms : Nat) (s : State) : (waitMs ms s).calMax = s.calMax := rfl
@[simp] theorem waitMs_lastPos (ms : Nat) (s : State) : (waitMs ms s).lastPos = s.lastPos := rfl
@[simp] theorem waitMs_clkO (ms : Nat) (s : State) : (waitMs ms s).clkO = s.clkO := rfl
@[simp] theorem waitMs_addrO (ms : Nat) (s : State) : (waitMs ms s).addrO = s.addrO := rfl
@[simp] theorem waitMs_cmds (ms : Nat) (s : State) : (waitMs ms s).cmds = s.cmds := rfl
@[simp] theorem waitMs_rst (ms : Nat) (s : State) : (waitMs ms s).rst = s.rst := rfl
@[simp] theorem waitMs_din (ms : Nat) (s : State) : (waitMs ms s).din = s.din := rfl
@[simp] theorem waitMs_dinCount (ms : Nat) (s : State) : (waitMs ms s).dinCount = s.dinCount := rfl
@[simp] theorem waitMs_resetCount (ms : Nat) (s : State) : (waitMs ms s).resetCount = s.resetCount := rfl
@[simp] theorem waitMs_rsp (ms : Nat) (s : State) : (waitMs ms s).rsp = s.rsp := rfl
@[simp] theorem waitMs_trace (ms : Nat) (s : State) : (waitMs ms s).trace = .wait (1000 * ms) :: s.trace := rfl
@[simp] theorem waitMs_cfg (ms : Nat) (s : State) : (waitMs ms s).cfg = s.cfg := rfl

/-! ### clkWrite -/

@[simp] theorem clkWrite_inited (v : Bool) (s : State) : (clkWrite v s).inited = s.inited := rfl
@[simp] theorem clkWrite_chs (v : Bool) (s : State) : (clkWrite v s).chs = s.chs := rfl
@[simp] theorem clkWrite_mode (v : Bool) (s : State) : (clkWrite v s).mode = s.mode := rfl
@[simp] theorem clkWrite_prescale (v : Bool) (s : State) : (clkWrite v s).prescale = s.prescale := rfl
@[simp] theorem clkWrite_calMin (v : Bool) (s : State) : (clkWrite v s).calMin = s.calMin := rfl
@[simp] theorem clkWrite_calMax (v : Bool) (s : State) : (clkWrite v s).calMax = s.calMax := rfl
@[simp] theorem clkWrite_lastPos (v : Bool) (s : State) : (clkWrite v s).lastPos = s.lastPos := rfl
@[simp] theorem clkWrite_clkO (v : Bool) (s : State) : (clkWrite v s).clkO = v := rfl
@[simp] theorem clkWrite_addrO (v : Bool) (s : State) : (clkWrite v s).addrO = s.addrO := rfl
@[simp] theorem clkWrite_cmds (v : Bool) (s : State) : (clkWrite v s).cmds = s.cmds := rfl
@[simp] theorem clkWrite_rst (v : Bool) (s : State) : (clkWrite v s).rst = s.rst := rfl
@[simp] theorem clkWrite_din (v : Bool) (s : State) : (clkWrite v s).din = s.din := rfl
@[simp] theorem clkWrite_dinCount (v : Bool) (s : State) : (clkWrite v s).dinCount = s.dinCount := rfl
@[simp] theorem clkWrite_resetCount (v : Bool) (s : State) : (clkWrite v s).resetCount = s.resetCount := rfl
@[simp] theorem clkWrite_rsp (v : Bool) (s : State) : (clkWrite v s).rsp = s.rsp := rfl
@[simp] theorem clkWrite_trace (v : Bool) (s : State) : (clkWrite v s).trace = .pin .clk v :: s.trace := rfl
@[simp] theorem clkWrite_cfg (v : Bool) (s : State) : (clkWrite v s).cfg = s.cfg := rfl

/-! ### addrWrite -/

@[simp] theorem addrWrite_inited (v : Bool) (s : State) : (addrWrite v s).inited = s.inited := rfl
@[simp] theorem addrWrite_chs (v : Bool) (s : State) : (addrWrite v s).chs = s.chs := rfl
@[simp] theorem addrWrite_mode (v : Bool) (s : State) : (addrWrite v s).mode = s.mode := rfl
@[simp] theorem addrWrite_prescale (v : Bool) (s : State) : (addrWrite v s).prescale = s.prescale := rfl
@[simp] theorem addrWrite_calMin (v : Bool) (s : State) : (addrWrite v s).calMin = s.calMin := rfl
@[simp] theorem addrWrite_calMax (v : Bool) (s : State) : (addrWrite v s).calMax = s.calMax := rfl
@[simp] theorem addrWrite_lastPos (v : Bool) (s : State) : (addrWrite v s).lastPos = s.lastPos := rfl
@[simp] theorem addrWrite_clkO (v : Bool) (s : State) : (addrWrite v s).clkO = s.clkO := rfl
@[simp] theorem addrWrite_addrO (v : Bool) (s : State) : (addrWrite v s).addrO = v := rfl
@[simp] theorem addrWrite_cmds (v : Bool) (s : State) : (addrWrite v s).cmds = s.cmds := rfl
@[simp] theorem addrWrite_rst (v : Bool) (s : State) : (addrWrite v s).rst = s.rst := rfl
@[simp] theorem addrWrite_din (v : Bool) (s : State) : (addrWrite v s).din = s.din := rfl
@[simp] theorem addrWrite_dinCount (v : Bool) (s : State) : (addrWrite v s).dinCount = s.dinCount := rfl
@[simp] theorem addrWrite_resetCount (v : Bool) (s : State) : (addrWrite v s).resetCount = s.resetCount := rfl
@[simp] theorem addrWrite_rsp (v : Bool) (s : State) : (addrWrite v s).rsp = s.rsp := rfl
@[simp] theorem addrWrite_trace (v : Bool) (s : State) : (addrWrite v s).trace = .pin .addr v :: s.trace := rfl
@[simp] theorem addrWrite_cfg (v : Bool) (s : State) : (addrWrite v s).cfg = s.cfg := rfl

/-! ### pinSample -/

@[simp] theorem pinSample_bit (s : State) : (pinSample s).1 = dinBit s 0 := rfl
@[simp] theorem pinSample_inited (s : State) : (pinSample s).2.inited = s.inited := rfl
@[simp] theorem pinSample_chs (s : State) : (pinSample s).2.chs = s.chs := rfl
@[simp] theorem pinSample_mode (s : State) : (pinSample s).2.mode = s.mode := rfl
@[simp] theorem pinSample_prescale (s : State) : (pinSample s).2.prescale = s.prescale := rfl
@[simp] theorem pinSample_calMin (s : State) : (pinSample s).2.calMin = s.calMin := rfl
@[simp] theorem pinSample_calMax (s : State) : (pinSample s).2.calMax = s.calMax := rfl
@[simp] theorem pinSample_lastPos (s : State) : (pinSample s).2.lastPos = s.lastPos := rfl
@[simp] theorem pinSample_clkO (s : State) : (pinSample s).2.clkO = s.clkO := rfl
@[simp] theorem pinSample_addrO (s : State) : (pinSample s).2.addrO = s.addrO := rfl
@[simp] theorem pinSample_cmds (s : State) : (pinSample s).2.cmds = s.cmds := rfl
@[simp] theorem pinSample_rst (s : State) : (pinSample s).2.rst = s.rst := rfl
@[simp] theorem pinSample_din (s : State) : (pinSample s).2.din = s.din.tail := rfl
@[simp] theorem pinSample_dinCount (s : State) : (pinSample s).2.dinCount = s.dinCount + 1 := rfl
@[simp] theorem pinSample_resetCount (s : State) : (pinSample s).2.resetCount = s.resetCount := rfl
@[simp] theorem pinSample_rsp (s : State) : (pinSample s).2.rsp = s.rsp := rfl
@[simp] theorem pinSample_trace (s : State) : (pinSample s).2.trace = .sample (dinBit s 0) :: s.trace := rfl
@[simp] theorem pinSample_cfg (s : State) : (pinSample s).2.cfg = s.cfg := rfl

/-! ### memWrite1 -/

@[simp] theorem memWrite1_inited (r : ByteReg) (v : Byte) (s : State) :
    (memWrite1 r v s).inited = s.inited := by cases r <;> rfl
@[simp] theorem memWrite1_chs (r : ByteReg) (v : Byte) (s : State) : (memWrite1 r v s).chs = s.chs := by cases r <;> rfl
@[simp] theorem memWrite1_mode (r : ByteReg) (v : Byte) (s : State) :
    (memWrite1 r v s).mode = if r = .mode then v else s.mode := by cases r <;> rfl
@[simp] theorem memWrite1_prescale (r : ByteReg) (v : Byte) (s : State) :
    (memWrite1 r v s).prescale = if r = .prescale then v else s.prescale := by cases r <;> rfl
@[simp] theorem memWrite1_calMin (r : ByteReg) (v : Byte) (s : State) :
    (memWrite1 r v s).calMin = s.calMin := by cases r <;> rfl
@[simp] theorem memWrite1_calMax (r : ByteReg) (v : Byte) (s : State) :
    (memWrite1 r v s).calMax = s.calMax := by cases r <;> rfl
@[simp] theorem memWrite1_lastPos (r : ByteReg) (v : Byte) (s : State) :
    (memWrite1 r v s).lastPos = s.lastPos := by cases r <;> rfl
@[simp] theorem memWrite1_clkO (r : ByteReg) (v : Byte) (s : State) : (memWrite1 r v s).clkO = s.clkO := by cases r <;> rfl
@[simp] theorem memWrite1_addrO (r : ByteReg) (v : Byte) (s : State) : (memWrite1 r v s).addrO = s.addrO := by cases r <;> rfl
@[simp] theorem memWrite1_cmds (r : ByteReg) (v : Byte) (s : State) : (memWrite1 r v s).cmds = s.cmds := by cases r <;> rfl
@[simp] theorem memWrite1_rst (r : ByteReg) (v : Byte) (s : State) : (memWrite1 r v s).rst = s.rst := by cases r <;> rfl
@[simp] theorem memWrite1_din (r : ByteReg) (v : Byte) (s : State) : (memWrite1 r v s).din = s.din := by cases r <;> rfl
@[simp] theorem memWrite1_dinCount (r : ByteReg) (v : Byte) (s : State) :
    (memWrite1 r v s).dinCount = s.dinCount := by cases r <;> rfl
@[simp] theorem memWrite1_resetCount (r : ByteReg) (v : Byte) (s : State) :
    (memWrite1 r v s).resetCount = s.resetCount := by cases r <;> rfl
@[simp] theorem memWrite1_rsp (r : ByteReg) (v : Byte) (s : State) : (memWrite1 r v s).rsp = s.rsp := by cases r <;> rfl
@[simp] theorem memWrite1_trace (r : ByteReg) (v : Byte) (s : State) :
    (memWrite1 r v s).trace = .bw1 (r.addr s.cfg) v :: s.trace := by cases r <;> rfl
@[simp] theorem memWrite1_cfg (r : ByteReg) (v : Byte) (s : State) : (memWrite1 r v s).cfg = s.cfg := by cases r <;> rfl

/-! ### memWrite4 -/

@[simp] theorem memWrite4_inited (ch : Nat) (b0 b1 b2 b3 : Byte) (s : State) :
    (memWrite4 ch b0 b1 b2 b3 s).inited = s.inited := rfl
@[simp] theorem memWrite4_chs (ch : Nat) (b0 b1 b2 b3 : Byte) (s : State) :
    (memWrite4 ch b0 b1 b2 b3 s).chs = s.chs.setIfInBounds ch ⟨tickOfBytes b0 b1, tickOfBytes b2 b3⟩ := rfl
@[simp] theorem memWrite4_mode (ch : Nat) (b0 b1 b2 b3 : Byte) (s : State) : (memWrite4 ch b0 b1 b2 b3 s).mode = s.mode := rfl
@[simp] theorem memWrite4_prescale (ch : Nat) (b0 b1 b2 b3 : Byte) (s : State) :
    (memWrite4 ch b0 b1 b2 b3 s).prescale = s.prescale := rfl
@[simp] theorem memWrite4_calMin (ch : Nat) (b0 b1 b2 b3 : Byte) (s : State) :
    (memWrite4 ch b0 b1 b2 b3 s).calMin = s.calMin := rfl
@[simp] theorem memWrite4_calMax (ch : Nat) (b0 b1 b2 b3 : Byte) (s : State) :
    (memWrite4 ch b0 b1 b2 b3 s).calMax = s.calMax := rfl
@[simp] theorem memWrite4_lastPos (ch : Nat) (b0 b1 b2 b3 : Byte) (s : State) :
    (memWrite4 ch b0 b1 b2 b3 s).lastPos = s.lastPos := rfl
@[simp] theorem memWrite4_clkO (ch : Nat) (b0 b1 b2 b3 : Byte) (s : State) : (memWrite4 ch b0 b1 b2 b3 s).clkO = s.clkO := rfl
@[simp] theorem memWrite4_addrO (ch : Nat) (b0 b1 b2 b3 : Byte) (s : State) :
    (memWrite4 ch b0 b1 b2 b3 s).addrO = s.addrO := rfl
@[simp] theorem memWrite4_cmds (ch : Nat) (b0 b1 b2 b3 : Byte) (s : State) : (memWrite4 ch b0 b1 b2 b3 s).cmds = s.cmds := rfl
@[simp] theorem memWrite4_rst (ch : Nat) (b0 b1 b2 b3 : Byte) (s : State) : (memWrite4 ch b0 b1 b2 b3 s).rst = s.rst := rfl
@[simp] theorem memWrite4_din (ch : Nat) (b0 b1 b2 b3 : Byte) (s : State) : (memWrite4 ch b0 b1 b2 b3 s).din = s.din := rfl
@[simp] theorem memWrite4_dinCount (ch : Nat) (b0 b1 b2 b3 : Byte) (s : State) :
    (memWrite4 ch b0 b1 b2 b3 s).dinCount = s.dinCount := rfl
@[simp] theorem memWrite4_resetCount (ch : Nat) (b0 b1 b2 b3 : Byte) (s : State) :
    (memWrite4 ch b0 b1 b2 b3 s).resetCount = s.resetCount := rfl
@[simp] theorem memWrite4_rsp (ch : Nat) (b0 b1 b2 b3 : Byte) (s : State) : (memWrite4 ch b0 b1 b2 b3 s).rsp = s.rsp := rfl
@[simp] theorem memWrite4_trace (ch : Nat) (b0 b1 b2 b3 : Byte) (s : State) :
    (memWrite4 ch b0 b1 b2 b3 s).trace = .bw4 (chAddr s.cfg ch 0) b0 b1 b2 b3 :: s.trace := rfl
@[simp] theorem memWrite4_cfg (ch : Nat) (b0 b1 b2 b3 : Byte) (s : State) : (memWrite4 ch b0 b1 b2 b3 s).cfg = s.cfg := rfl

/-! ### resetRanges -/

@[simp] theorem resetRanges_inited (s : State) : (resetRanges s).inited = s.inited := rfl
@[simp] theorem resetRanges_chs (s : State) : (resetRanges s).chs = s.chs := rfl
@[simp] theorem resetRanges_mode (s : State) : (resetRanges s).mode = s.mode := rfl
@[simp] theorem resetRanges_prescale (s : State) : (resetRanges s).prescale = s.prescale := rfl
@[simp] theorem resetRanges_calMin (s : State) : (resetRanges s).calMin = .all 1023 := rfl
@[simp] theorem resetRanges_calMax (s : State) : (resetRanges s).calMax = .all 0 := rfl
@[simp] theorem resetRanges_lastPos (s : State) : (resetRanges s).lastPos = s.lastPos := rfl
@[simp] theorem resetRanges_clkO (s : State) : (resetRanges s).clkO = s.clkO := rfl
@[simp] theorem resetRanges_addrO (s : State) : (resetRanges s).addrO = s.addrO := rfl
@[simp] theorem resetRanges_cmds (s : State) : (resetRanges s).cmds = s.cmds := rfl
@[simp] theorem resetRanges_rst (s : State) : (resetRanges s).rst = s.rst := rfl
@[simp] theorem resetRanges_din (s : State) : (resetRanges s).din = s.din := rfl
@[simp] theorem resetRanges_dinCount (s : State) : (resetRanges s).dinCount = s.dinCount := rfl
@[simp] theorem resetRanges_resetCount (s : State) : (resetRanges s).resetCount = s.resetCount := rfl
@[simp] theorem resetRanges_rsp (s : State) : (resetRanges s).rsp = s.rsp := rfl
@[simp] theorem resetRanges_trace (s : State) : (resetRanges s).trace = s.trace := rfl
@[simp] theorem resetRanges_cfg (s : State) : (resetRanges s).cfg = s.cfg := rfl

/-! ### mergeRanges -/

@[simp] theorem mergeRanges_inited (e : Extremes) (s : State) : (mergeRanges e s).inited = s.inited := rfl
@[simp] theorem mergeRanges_chs (e : Extremes) (s : State) : (mergeRanges e s).chs = s.chs := rfl
@[simp] theorem mergeRanges_mode (e : Extremes) (s : State) : (mergeRanges e s).mode = s.mode := rfl
@[simp] theorem mergeRanges_prescale (e : Extremes) (s : State) : (mergeRanges e s).prescale = s.prescale := rfl
@[simp] theorem mergeRanges_calMin (e : Extremes) (s : State) :
    (mergeRanges e s).calMin = s.calMin.zipWith mergeMin e.itMax := rfl
@[simp] theorem mergeRanges_calMax (e : Extremes) (s : State) :
    (mergeRanges e s).calMax = s.calMax.zipWith mergeMax e.itMin := rfl
@[simp] theorem mergeRanges_lastPos (e : Extremes) (s : State) : (mergeRanges e s).lastPos = s.lastPos := rfl
@[simp] theorem mergeRanges_clkO (e : Extremes) (s : State) : (mergeRanges e s).clkO = s.clkO := rfl
@[simp] theorem mergeRanges_addrO (e : Extremes) (s : State) : (mergeRanges e s).addrO = s.addrO := rfl
@[simp] theorem mergeRanges_cmds (e : Extremes) (s : State) : (mergeRanges e s).cmds = s.cmds := rfl
@[simp] theorem mergeRanges_rst (e : Extremes) (s : State) : (mergeRanges e s).rst = s.rst := rfl
@[simp] theorem mergeRanges_din (e : Extremes) (s : State) : (mergeRanges e s).din = s.din := rfl
@[simp] theorem mergeRanges_dinCount (e : Extremes) (s : State) : (mergeRanges e s).dinCount = s.dinCount := rfl
@[simp] theorem mergeRanges_resetCount (e : Extremes) (s : State) : (mergeRanges e s).resetCount = s.resetCount := rfl
@[simp] theorem mergeRanges_rsp (e : Extremes) (s : State) : (mergeRanges e s).rsp = s.rsp := rfl
@[simp] theorem mergeRanges_trace (e : Extremes) (s : State) : (mergeRanges e s).trace = s.trace := rfl
@[simp] theorem mergeRanges_cfg (e : Extremes) (s : State) : (mergeRanges e s).cfg = s.cfg := rfl

/-! ### setLastPos -/

@[simp] theorem setLastPos_inited (pos : Int) (s : State) : (setLastPos pos s).inited = s.inited := rfl
@[simp] theorem setLastPos_chs (pos : Int) (s : State) : (setLastPos pos s).chs = s.chs := rfl
@[simp] theorem setLastPos_mode (pos : Int) (s : State) : (setLastPos pos s).mode = s.mode := rfl
@[simp] theorem setLastPos_prescale (pos : Int) (s : State) : (setLastPos pos s).prescale = s.prescale := rfl
@[simp] theorem setLastPos_calMin (pos : Int) (s : State) : (setLastPos pos s).calMin = s.calMin := rfl
@[simp] theorem setLastPos_calMax (pos : Int) (s : State) : (setLastPos pos s).calMax = s.calMax := rfl
@[simp] theorem setLastPos_lastPos (pos : Int) (s : State) : (setLastPos pos s).lastPos = BitVec.ofInt 12 pos := rfl
@[simp] theorem setLastPos_clkO (pos : Int) (s : State) : (setLastPos pos s).clkO = s.clkO := rfl
@[simp] theorem setLastPos_addrO (pos : Int) (s : State) : (setLastPos pos s).addrO = s.addrO := rfl
@[simp] theorem setLastPos_cmds (pos : Int) (s : State) : (setLastPos pos s).cmds = s.cmds := rfl
@[simp] theorem setLastPos_rst (pos : Int) (s : State) : (setLastPos pos s).rst = s.rst := rfl
@[simp] theorem setLastPos_din (pos : Int) (s : State) : (setLastPos pos s).din = s.din := rfl
@[simp] theorem setLastPos_dinCount (pos : Int) (s : State) : (setLastPos pos s).dinCount = s.dinCount := rfl
@[simp] theorem setLastPos_resetCount (pos : Int) (s : State) : (setLastPos pos s).resetCount = s.resetCount := rfl
@[simp] theorem setLastPos_rsp (pos : Int) (s : State) : (setLastPos pos s).rsp = s.rsp := rfl
@[simp] theorem setLastPos_trace (pos : Int) (s : State) : (setLastPos pos s).trace = s.trace := rfl
@[simp] theorem setLastPos_cfg (pos : Int) (s : State) : (setLastPos pos s).cfg = s.cfg := rfl

/-! ### accepted -/

@[simp] theorem accepted_inited (rest : List Command) (s : State) : (accepted rest s).inited = s.inited := rfl
@[simp] theorem accepted_chs (rest : List Command) (s : State) : (accepted rest s).chs = s.chs := rfl
@[simp] theorem accepted_mode (rest : List Command) (s : State) : (accepted rest s).mode = s.mode := rfl
@[simp] theorem accepted_prescale (rest : List Command) (s : State) : (accepted rest s).prescale = s.prescale := rfl
@[simp] theorem accepted_calMin (rest : List Command) (s : State) : (accepted rest s).calMin = s.calMin := rfl
@[simp] theorem accepted_calMax (rest : List Command) (s : State) : (accepted rest s).calMax = s.calMax := rfl
@[simp] theorem accepted_lastPos (rest : List Command) (s : State) : (accepted rest s).lastPos = s.lastPos := rfl
@[simp] theorem accepted_clkO (rest : List Command) (s : State) : (accepted rest s).clkO = s.clkO := rfl
@[simp] theorem accepted_addrO (rest : List Command) (s : State) : (accepted rest s).addrO = s.addrO := rfl
@[simp] theorem accepted_cmds (rest : List Command) (s : State) : (accepted rest s).cmds = rest := rfl
@[simp] theorem accepted_rst (rest : List Command) (s : State) : (accepted rest s).rst = s.rst := rfl
@[simp] theorem accepted_din (rest : List Command) (s : State) : (accepted rest s).din = s.din := rfl
@[simp] theorem accepted_dinCount (rest : List Command) (s : State) : (accepted rest s).dinCount = s.dinCount := rfl
@[simp] theorem accepted_resetCount (rest : List Command) (s : State) : (accepted rest s).resetCount = s.resetCount := rfl
@[simp] theorem accepted_rsp (rest : List Command) (s : State) : (accepted rest s).rsp = none := rfl
@[simp] theorem accepted_trace (rest : List Command) (s : State) : (accepted rest s).trace = s.trace := rfl
@[simp] theorem accepted_cfg (rest : List Command) (s : State) : (accepted rest s).cfg = s.cfg := rfl

/-! ### idleCycle -/

@[simp] theorem idleCycle_inited (s : State) : (idleCycle s).inited = s.inited := rfl
@[simp] theorem idleCycle_chs (s : State) : (idleCycle s).chs = s.chs := rfl
@[simp] theorem idleCycle_mode (s : State) : (idleCycle s).mode = s.mode := rfl
@[simp] theorem idleCycle_prescale (s : State) : (idleCycle s).prescale = s.prescale := rfl
@[simp] theorem idleCycle_calMin (s : State) : (idleCycle s).calMin = s.calMin := rfl
@[simp] theorem idleCycle_calMax (s : State) : (idleCycle s).calMax = s.calMax := rfl
@[simp] theorem idleCycle_lastPos (s : State) : (idleCycle s).lastPos = s.lastPos := rfl
@[simp] theorem idleCycle_clkO (s : State) : (idleCycle s).clkO = s.clkO := rfl
@[simp] theorem idleCycle_addrO (s : State) : (idleCycle s).addrO = s.addrO := rfl
@[simp] theorem idleCycle_cmds (s : State) : (idleCycle s).cmds = s.cmds := rfl
@[simp] theorem idleCycle_rst (s : State) : (idleCycle s).rst = s.rst := rfl
@[simp] theorem idleCycle_din (s : State) : (idleCycle s).din = s.din := rfl
@[simp] theorem idleCycle_dinCount (s : State) : (idleCycle s).dinCount = s.dinCount := rfl
@[simp] theorem idleCycle_resetCount (s : State) : (idleCycle s).resetCount = s.resetCount := rfl
@[simp] theorem idleCycle_rsp (s : State) : (idleCycle s).rsp = none := rfl
@[simp] theorem idleCycle_trace (s : State) : (idleCycle s).trace = s.trace := rfl
@[simp] theorem idleCycle_cfg (s : State) : (idleCycle s).cfg = s.cfg := rfl

/-! ### resetFrom -/

@[simp] theorem resetFrom_inited (s : State) : (resetFrom s).inited = false := rfl
@[simp] theorem resetFrom_chs (s : State) : (resetFrom s).chs = unspecifiedChannels (s.resetCount + 1) := rfl
@[simp] theorem resetFrom_mode (s : State) : (resetFrom s).mode = Config.modeFree (s.resetCount + 1) := rfl
@[simp] theorem resetFrom_prescale (s : State) : (resetFrom s).prescale = Config.prescaleFree (s.resetCount + 1) := rfl
@[simp] theorem resetFrom_calMin (s : State) : (resetFrom s).calMin = .all 100 := rfl
@[simp] theorem resetFrom_calMax (s : State) : (resetFrom s).calMax = .all 650 := rfl
@[simp] theorem resetFrom_lastPos (s : State) : (resetFrom s).lastPos = 0 := rfl
@[simp] theorem resetFrom_clkO (s : State) : (resetFrom s).clkO = false := rfl
@[simp] theorem resetFrom_addrO (s : State) : (resetFrom s).addrO = false := rfl
@[simp] theorem resetFrom_cmds (s : State) : (resetFrom s).cmds = s.cmds := rfl
@[simp] theorem resetFrom_rst (s : State) : (resetFrom s).rst = .low := rfl
@[simp] theorem resetFrom_din (s : State) : (resetFrom s).din = s.din := rfl
@[simp] theorem resetFrom_dinCount (s : State) : (resetFrom s).dinCount = s.dinCount := rfl
@[simp] theorem resetFrom_resetCount (s : State) : (resetFrom s).resetCount = s.resetCount + 1 := rfl
@[simp] theorem resetFrom_rsp (s : State) : (resetFrom s).rsp = none := rfl
@[simp] theorem resetFrom_trace (s : State) : (resetFrom s).trace = s.trace := rfl
@[simp] theorem resetFrom_cfg (s : State) : (resetFrom s).cfg = s.cfg := rfl

end Sys2Proof.Machine
end

