-- ==== Sys2Proof/Laws/Bus.lean ====
section
/-! SUPPORT. The address map under well-formed parameters, the bytes the bus shows, and what a channel write does. -/

namespace Sys2Proof.Machine

/-! ### Well-formed parameters -/

theorem wf_iff (c : Config) : c.wf = true ↔
    c.channels.Nodup ∧ 4 ≤ c.chStride ∧ c.chEnd ≤ 256 ∧
    (c.modeReg.toNat < c.chBase.toNat ∨ c.chEnd ≤ c.modeReg.toNat) ∧
    (c.prescaleReg.toNat < c.chBase.toNat ∨ c.chEnd ≤ c.prescaleReg.toNat) ∧
    c.modeReg ≠ c.prescaleReg := by
  simp [Config.wf, and_assoc]

theorem wf_channels {c : Config} (h : c.wf = true) :
    [c.gateCh.val, c.m1Fwd.val, c.m1Rev.val, c.m1Mag.val, c.m2Fwd.val, c.m2Rev.val, c.m2Mag.val].Nodup :=
  ((wf_iff c).1 h).1.map Fin.val_injective

theorem fin11_le (i : Fin 11) : i.val ≤ 15 := by omega

/-! ### Addresses -/

/-- The channel part of the map lies in [CH_BASE, chEnd). -/
theorem channel_offset {c : Config} (h : c.wf = true) {ch k : Nat} (hch : ch ≤ 15) (hk : k ≤ 3) :
    c.chBase.toNat + (c.chStride * ch + k) < c.chEnd ∧ c.chEnd ≤ 256 := by
  have := Nat.mul_le_mul_left c.chStride hch
  exact ⟨by unfold Config.chEnd; omega, ((wf_iff c).1 h).2.2.1⟩

/-- No byte of a channel wraps round the 8-bit space (20_memory R51). -/
theorem chAddr_toNat {c : Config} (h : c.wf = true) {ch k : Nat} (hch : ch ≤ 15) (hk : k ≤ 3) :
    (chAddr c ch k).toNat = c.chBase.toNat + (c.chStride * ch + k) := by
  obtain ⟨h1, h2⟩ := channel_offset h hch hk
  simp only [chAddr, BitVec.toNat_add, BitVec.toNat_ofNat, Nat.add_mod_mod]
  exact Nat.mod_eq_of_lt (by omega)

/-! ### The bytes of a tick (20_memory R53, R55) -/

@[simp] theorem tickOfBytes_low_high (t : Tick) : tickOfBytes (tickLow t) (tickHigh t) = t := by
  apply BitVec.eq_of_getLsbD_eq
  intro i hi
  simp only [tickOfBytes, tickLow, tickHigh, BitVec.getLsbD_append, BitVec.getLsbD_extractLsb']
  by_cases h : i < 8
  · simp [h]
  · have : i - 8 < 4 := by omega
    simp [h, this, show 8 + (i - 8) = i by omega]

theorem tickLow_toNat (t : Tick) : (tickLow t).toNat = t.toNat % 256 := by
  simp [tickLow, BitVec.extractLsb'_toNat]

theorem tickHigh_toNat (t : Tick) : (tickHigh t).toNat = t.toNat / 256 := by
  have := t.isLt
  simp only [tickHigh, BitVec.toNat_append, BitVec.extractLsb'_toNat, BitVec.toNat_ofNat, Nat.shiftRight_eq_div_pow]
  simp
  omega

/-! ### The bytes the bus shows (20_memory R51, R58) -/

@[simp] theorem busByte_mode (s : State) : s.busByte s.cfg.modeReg = some s.mode := by simp [State.busByte]

theorem busByte_prescale {s : State} (h : s.cfg.wf = true) : s.busByte s.cfg.prescaleReg = some s.prescale := by
  have : ¬ s.cfg.prescaleReg = s.cfg.modeReg := fun e => ((wf_iff _).1 h).2.2.2.2.2 e.symm
  simp [State.busByte, this]

/-- Any address `CH_BASE + CH_STRIDE*q + r` that is not MODE's or PRESCALE's. -/
theorem busByte_channel {s : State} (h : s.cfg.wf = true) {a : BitVec 8} {q r : Nat} (hr : r < s.cfg.chStride)
    (ha : a.toNat = s.cfg.chBase.toNat + (s.cfg.chStride * q + r)) (hm : a ≠ s.cfg.modeReg) (hp : a ≠ s.cfg.prescaleReg) :
    s.busByte a = if 4 ≤ r then none else (s.ch q).map fun c => c.byte r := by
  have hs : 0 < s.cfg.chStride := by have := ((wf_iff _).1 h).2.1; omega
  have hsub : a.toNat - s.cfg.chBase.toNat = s.cfg.chStride * q + r := by omega
  have hlt : ¬ a.toNat < s.cfg.chBase.toNat := by omega
  simp only [State.busByte, hm, hp, hlt, if_false, hsub, Nat.mul_add_mod, Nat.mod_eq_of_lt hr, Nat.mul_add_div hs,
    Nat.div_eq_of_lt hr, Nat.add_zero]

/-- Byte `k` of channel `i` (20_memory R51). -/
theorem busByte_chAddr {s : State} (h : s.cfg.wf = true) {i k : Nat} (hi : i ≤ 15) (hk : k ≤ 3) :
    s.busByte (chAddr s.cfg i k) = (s.ch i).map fun c => c.byte k := by
  obtain ⟨-, h4, hE, hm, hp, -⟩ := (wf_iff _).1 h
  have ha := chAddr_toNat h hi hk
  have hlt := (channel_offset h hi hk).1
  rw [busByte_channel h (by omega) ha (fun e => by rw [e] at ha; omega) (fun e => by rw [e] at ha; omega), if_neg (by omega)]

/-- An index has a channel iff it is in 0..15 (10_state R23). -/
theorem ch_isSome {s : State} {i : Nat} : (s.ch i).isSome = true ↔ i ≤ 15 := by
  simp [State.ch]
  omega

theorem ch_val (s : State) (i : Fin 16) : s.ch i.val = some s.chs[i] := by simp [State.ch]

/-- A byte shown by the bus depends on the registers and the parameters alone. -/
theorem busByte_congr {s t : State} (hc : t.cfg = s.cfg) (hm : t.mode = s.mode) (hp : t.prescale = s.prescale)
    {a : BitVec 8} (h : ∀ i ≤ 15, (∃ k ≤ 3, a.toNat = s.cfg.chBase.toNat + (s.cfg.chStride * i + k)) → t.ch i = s.ch i) :
    t.busByte a = s.busByte a := by
  simp only [State.busByte, hc, hm, hp]
  split
  · rfl
  · split
    · rfl
    · split
      · rfl
      · split
        · rfl
        · next hlt hr =>
          generalize hq : (a.toNat - s.cfg.chBase.toNat) / s.cfg.chStride = q
          by_cases hi : q ≤ 15
          · rw [h q hi ⟨(a.toNat - s.cfg.chBase.toNat) % s.cfg.chStride, by omega, by
              have := Nat.div_add_mod (a.toNat - s.cfg.chBase.toNat) s.cfg.chStride
              rw [hq] at this
              omega⟩]
          · have no : ∀ u : State, u.ch q = none := fun u => by
              rw [← Option.not_isSome_iff_eq_none, ch_isSome]; exact hi
            rw [no, no]

/-! ### What a channel write does -/

/-- The channel a write names holds the pair; every other channel holds what it held. -/
theorem chWrite_ch {ch : Nat} (hch : ch ≤ 15) (on off : Tick) (s : State) (i : Nat) :
    (chWrite ch on off s).ch i = if i = ch then some ⟨on, off⟩ else s.ch i := by
  have hb : ¬ 15 < ch := by omega
  have hc : ch < 16 := by omega
  simp only [chWrite, hb, if_false, State.ch, memWrite4_chs, tickOfBytes_low_high, Vector.getElem?_setIfInBounds, hc, if_true,
    eq_comm]

/-- `ChWrite` outside 0..15 does nothing (40_pwm_controller R93). -/
theorem chWrite_out {ch : Nat} (h : 15 < ch) (on off : Tick) (s : State) : chWrite ch on off s = s := by
  simp [chWrite, h]

/-- `ChWrite` inside 0..15: one pair, one event, nothing else (40_pwm_controller R93). -/
theorem chWrite_eq {ch : Nat} (h : ch ≤ 15) (on off : Tick) (s : State) :
    chWrite ch on off s =
      { s with
        chs := s.chs.setIfInBounds ch ⟨on, off⟩
        trace := channelEvent s.cfg ch on off :: s.trace } := by
  have hb : ¬ 15 < ch := by omega
  simp only [chWrite, hb, if_false, memWrite4, emit, setCh, tickOfBytes_low_high, channelEvent]

section fields
variable (ch : Nat) (on off : Tick) (s : State)
@[simp] theorem chWrite_inited : (chWrite ch on off s).inited = s.inited := by unfold chWrite; split <;> rfl
@[simp] theorem chWrite_mode : (chWrite ch on off s).mode = s.mode := by unfold chWrite; split <;> rfl
@[simp] theorem chWrite_prescale : (chWrite ch on off s).prescale = s.prescale := by unfold chWrite; split <;> rfl
@[simp] theorem chWrite_calMin : (chWrite ch on off s).calMin = s.calMin := by unfold chWrite; split <;> rfl
@[simp] theorem chWrite_calMax : (chWrite ch on off s).calMax = s.calMax := by unfold chWrite; split <;> rfl
@[simp] theorem chWrite_lastPos : (chWrite ch on off s).lastPos = s.lastPos := by unfold chWrite; split <;> rfl
@[simp] theorem chWrite_clkO : (chWrite ch on off s).clkO = s.clkO := by unfold chWrite; split <;> rfl
@[simp] theorem chWrite_addrO : (chWrite ch on off s).addrO = s.addrO := by unfold chWrite; split <;> rfl
@[simp] theorem chWrite_cmds : (chWrite ch on off s).cmds = s.cmds := by unfold chWrite; split <;> rfl
@[simp] theorem chWrite_rst : (chWrite ch on off s).rst = s.rst := by unfold chWrite; split <;> rfl
@[simp] theorem chWrite_din : (chWrite ch on off s).din = s.din := by unfold chWrite; split <;> rfl
@[simp] theorem chWrite_dinCount : (chWrite ch on off s).dinCount = s.dinCount := by unfold chWrite; split <;> rfl
@[simp] theorem chWrite_resetCount : (chWrite ch on off s).resetCount = s.resetCount := by unfold chWrite; split <;> rfl
@[simp] theorem chWrite_rsp : (chWrite ch on off s).rsp = s.rsp := by unfold chWrite; split <;> rfl
@[simp] theorem chWrite_cfg : (chWrite ch on off s).cfg = s.cfg := by unfold chWrite; split <;> rfl
end fields

/-- The event of a channel write. -/
theorem chWrite_trace {ch : Nat} (h : ch ≤ 15) (on off : Tick) (s : State) :
    (chWrite ch on off s).trace = channelEvent s.cfg ch on off :: s.trace := by
  rw [chWrite_eq h]

/-- Channels other than the one written, whatever the index. -/
theorem chWrite_ch_other (ch : Nat) (on off : Tick) (s : State) {i : Nat} (h : i ≠ ch) :
    (chWrite ch on off s).ch i = s.ch i := by
  by_cases hc : 15 < ch
  · rw [chWrite_out hc]
  · rw [chWrite_ch (by omega), if_neg h]

end Sys2Proof.Machine
end

