-- ==== Sys2Proof/Laws/Init.lean ====
section
/-! SUPPORT. Initialisation: it always completes, what it leaves, and that a self-initialising command is its own work in
`afterInit`. -/

namespace Sys2Proof.Machine

/-! ### A run of zeroing writes -/

/-- A fold whose steps all keep `g` keeps `g`. -/
theorem foldl_keeps {α β γ : Type} (g : α → γ) (f : α → β → α) (h : ∀ a b, g (f a b) = g a) (l : List β) (a : α) :
    g (l.foldl f a) = g a := by
  induction l generalizing a with
  | nil => rfl
  | cons b l ih => rw [List.foldl_cons, ih, h]

/-- The zeroing loop of the initialisation (40_pwm_controller R95). -/
abbrev zeroAll (l : List Nat) (s : State) : State := l.foldl (fun t ch => chWrite ch 0 0 t) s

theorem zeroAll_cfg (l : List Nat) (s : State) : (zeroAll l s).cfg = s.cfg := foldl_keeps _ _ (by simp) l s

theorem zeroAll_ch {l : List Nat} (hl : ∀ ch ∈ l, ch ≤ 15) (s : State) (i : Nat) :
    (zeroAll l s).ch i = if i ∈ l then some ⟨0, 0⟩ else s.ch i := by
  induction l generalizing s with
  | nil => simp
  | cons b l ih =>
    rw [zeroAll, List.foldl_cons, ← zeroAll, ih (fun c h => hl c (List.mem_cons_of_mem _ h)),
      chWrite_ch (hl b List.mem_cons_self)]
    by_cases h1 : i ∈ l <;> by_cases h2 : i = b <;> simp [h1, h2]

theorem zeroAll_trace {l : List Nat} (hl : ∀ ch ∈ l, ch ≤ 15) (s : State) :
    (zeroAll l s).trace = (l.map fun ch => channelEvent s.cfg ch 0 0).reverse ++ s.trace := by
  induction l generalizing s with
  | nil => simp
  | cons b l ih =>
    rw [zeroAll, List.foldl_cons, ← zeroAll, ih (fun c h => hl c (List.mem_cons_of_mem _ h)),
      chWrite_trace (hl b List.mem_cons_self)]
    simp

theorem mem_zeroedChannels {c : Config} {i : Nat} : i ∈ zeroedChannels c ↔ i ≤ 15 ∧ i ≠ c.gateCh.val := by
  simp only [zeroedChannels, Config.nCh, List.mem_filter, List.mem_range, bne_iff_ne]
  omega

theorem zeroedChannels_le {c : Config} : ∀ i ∈ zeroedChannels c, i ≤ 15 := fun _ h => (mem_zeroedChannels.1 h).1

/-! ### The sequence -/

/-- The state after SetFrequency(500) inside the initialisation: five one-byte writes, one read, one wait (40_pwm_controller
R92). -/
def afterFrequency (s : State) : State :=
  let c := s.cfg
  memWrite1 .mode (initialisedMode c)
    (wait 5000
      (memWrite1 .mode c.modeResetVal
        (memWrite1 .prescale 11
          (memWrite1 .mode ((c.modeResetVal &&& ~~~c.modeRestart) ||| c.modeSleep)
            (emit (.br1 c.modeReg c.modeResetVal) (memWrite1 .mode c.modeResetVal (setInited s)))))))

/-- The prescale of 500 Hz is 11 (40_pwm_controller R92). -/
theorem prescaleByte_500 : prescaleByte Config.freqHz = 11 := by decide

theorem initSequence_eq (s : State) : initSequence s = initChannels (afterFrequency s) := by
  simp [initSequence, setFrequency, memReadMode, prescaleByte_500, Config.tOscSettleUs, initialisedMode, afterFrequency]

@[simp] theorem withInit_eq (rest : State → State) (s : State) : withInit rest s = .next (rest s.afterInit) := rfl

/-- Once initialised, EnsureInit does nothing (40_pwm_controller R91). -/
theorem afterInit_of_inited {s : State} (h : s.inited = true) : s.afterInit = s := by
  simp [State.afterInit, ensureInit, h]

theorem afterInit_of_not {s : State} (h : s.inited = false) : s.afterInit = initChannels (afterFrequency s) := by
  simp [State.afterInit, ensureInit, h, initSequence_eq]

/-! ### What it leaves -/

/-- What every channel write keeps, the last two steps of the initialisation keep. -/
theorem initChannels_keeps {γ : Type} (g : State → γ) (h : ∀ ch on off t, g (chWrite ch on off t) = g t) (s : State) :
    g (initChannels s) = g s := by
  rw [initChannels, foldl_keeps g _ (fun a b => h _ _ _ _), h]

section fields
variable (s : State)
@[simp] theorem afterInit_inited : s.afterInit.inited = true := by
  cases h : s.inited
  · rw [afterInit_of_not h, initChannels_keeps State.inited (by simp)]; rfl
  · rw [afterInit_of_inited h, h]
@[simp] theorem afterInit_calMin : s.afterInit.calMin = s.calMin := by
  cases h : s.inited
  · rw [afterInit_of_not h, initChannels_keeps State.calMin (by simp)]; rfl
  · rw [afterInit_of_inited h]
@[simp] theorem afterInit_calMax : s.afterInit.calMax = s.calMax := by
  cases h : s.inited
  · rw [afterInit_of_not h, initChannels_keeps State.calMax (by simp)]; rfl
  · rw [afterInit_of_inited h]
@[simp] theorem afterInit_lastPos : s.afterInit.lastPos = s.lastPos := by
  cases h : s.inited
  · rw [afterInit_of_not h, initChannels_keeps State.lastPos (by simp)]; rfl
  · rw [afterInit_of_inited h]
@[simp] theorem afterInit_clkO : s.afterInit.clkO = s.clkO := by
  cases h : s.inited
  · rw [afterInit_of_not h, initChannels_keeps State.clkO (by simp)]; rfl
  · rw [afterInit_of_inited h]
@[simp] theorem afterInit_addrO : s.afterInit.addrO = s.addrO := by
  cases h : s.inited
  · rw [afterInit_of_not h, initChannels_keeps State.addrO (by simp)]; rfl
  · rw [afterInit_of_inited h]
@[simp] theorem afterInit_cmds : s.afterInit.cmds = s.cmds := by
  cases h : s.inited
  · rw [afterInit_of_not h, initChannels_keeps State.cmds (by simp)]; rfl
  · rw [afterInit_of_inited h]
@[simp] theorem afterInit_rst : s.afterInit.rst = s.rst := by
  cases h : s.inited
  · rw [afterInit_of_not h, initChannels_keeps State.rst (by simp)]; rfl
  · rw [afterInit_of_inited h]
@[simp] theorem afterInit_din : s.afterInit.din = s.din := by
  cases h : s.inited
  · rw [afterInit_of_not h, initChannels_keeps State.din (by simp)]; rfl
  · rw [afterInit_of_inited h]
@[simp] theorem afterInit_dinCount : s.afterInit.dinCount = s.dinCount := by
  cases h : s.inited
  · rw [afterInit_of_not h, initChannels_keeps State.dinCount (by simp)]; rfl
  · rw [afterInit_of_inited h]
@[simp] theorem afterInit_resetCount : s.afterInit.resetCount = s.resetCount := by
  cases h : s.inited
  · rw [afterInit_of_not h, initChannels_keeps State.resetCount (by simp)]; rfl
  · rw [afterInit_of_inited h]
@[simp] theorem afterInit_rsp : s.afterInit.rsp = s.rsp := by
  cases h : s.inited
  · rw [afterInit_of_not h, initChannels_keeps State.rsp (by simp)]; rfl
  · rw [afterInit_of_inited h]
@[simp] theorem afterInit_cfg : s.afterInit.cfg = s.cfg := by
  cases h : s.inited
  · rw [afterInit_of_not h, initChannels_keeps State.cfg (by simp)]; rfl
  · rw [afterInit_of_inited h]
end fields

theorem afterFrequency_cfg (s : State) : (afterFrequency s).cfg = s.cfg := rfl

/-- The 23 events of the first initialisation, in order (40_pwm_controller R95). -/
theorem afterInit_trace {s : State} (h : s.inited = false) :
    s.afterInit.trace = (initEvents s.cfg).reverse ++ s.trace := by
  rw [afterInit_of_not h, initChannels, ← zeroAll, zeroAll_trace zeroedChannels_le, chWrite_cfg,
    chWrite_trace (fin11_le _)]
  simp [afterFrequency, initEvents, ByteReg.addr, zeroedChannels, Config.nCh, initialisedMode]

theorem afterInit_ch {s : State} (h : s.inited = false) {i : Nat} (hi : i ≤ 15) :
    s.afterInit.ch i = some (if i = s.cfg.gateCh.val then ⟨0, 4095⟩ else ⟨0, 0⟩) := by
  rw [afterInit_of_not h, initChannels, ← zeroAll, zeroAll_ch zeroedChannels_le, chWrite_ch (fin11_le _)]
  by_cases e : i = s.cfg.gateCh.val
  · simp [mem_zeroedChannels, afterFrequency_cfg, e]
  · simp [mem_zeroedChannels, afterFrequency_cfg, e, hi]

theorem afterInit_mode {s : State} (h : s.inited = false) : s.afterInit.mode = initialisedMode s.cfg := by
  rw [afterInit_of_not h, initChannels_keeps State.mode (by simp)]; rfl

theorem afterInit_prescale {s : State} (h : s.inited = false) : s.afterInit.prescale = 11 := by
  rw [afterInit_of_not h, initChannels_keeps State.prescale (by simp)]; rfl

end Sys2Proof.Machine
end

