-- ==== Sys2Proof/Laws/Motors.lean ====
section
/-! SUPPORT. `SetValue`, `Run` and `Drive`: what they change and what they leave. -/

namespace Sys2Proof.Machine

@[simp] theorem setValue_eq (ch : Nat) (v : Tick) (s : State) : setValue ch v s = chWrite ch 0 v s := rfl

section fields
variable (m : Motor) (speed : Int) (s : State)
@[simp] theorem run_inited : (run m speed s).inited = s.inited := by simp [run]
@[simp] theorem run_mode : (run m speed s).mode = s.mode := by simp [run]
@[simp] theorem run_prescale : (run m speed s).prescale = s.prescale := by simp [run]
@[simp] theorem run_calMin : (run m speed s).calMin = s.calMin := by simp [run]
@[simp] theorem run_calMax : (run m speed s).calMax = s.calMax := by simp [run]
@[simp] theorem run_lastPos : (run m speed s).lastPos = s.lastPos := by simp [run]
@[simp] theorem run_clkO : (run m speed s).clkO = s.clkO := by simp [run]
@[simp] theorem run_addrO : (run m speed s).addrO = s.addrO := by simp [run]
@[simp] theorem run_cmds : (run m speed s).cmds = s.cmds := by simp [run]
@[simp] theorem run_rst : (run m speed s).rst = s.rst := by simp [run]
@[simp] theorem run_din : (run m speed s).din = s.din := by simp [run]
@[simp] theorem run_dinCount : (run m speed s).dinCount = s.dinCount := by simp [run]
@[simp] theorem run_resetCount : (run m speed s).resetCount = s.resetCount := by simp [run]
@[simp] theorem run_rsp : (run m speed s).rsp = s.rsp := by simp [run]
@[simp] theorem run_cfg : (run m speed s).cfg = s.cfg := by simp [run]
end fields

section fields
variable (dir : Dir) (speed : Int) (s : State)
@[simp] theorem driveBoth_inited : (driveBoth dir speed s).inited = s.inited := by simp [driveBoth]
@[simp] theorem driveBoth_mode : (driveBoth dir speed s).mode = s.mode := by simp [driveBoth]
@[simp] theorem driveBoth_prescale : (driveBoth dir speed s).prescale = s.prescale := by simp [driveBoth]
@[simp] theorem driveBoth_calMin : (driveBoth dir speed s).calMin = s.calMin := by simp [driveBoth]
@[simp] theorem driveBoth_calMax : (driveBoth dir speed s).calMax = s.calMax := by simp [driveBoth]
@[simp] theorem driveBoth_lastPos : (driveBoth dir speed s).lastPos = s.lastPos := by simp [driveBoth]
@[simp] theorem driveBoth_clkO : (driveBoth dir speed s).clkO = s.clkO := by simp [driveBoth]
@[simp] theorem driveBoth_addrO : (driveBoth dir speed s).addrO = s.addrO := by simp [driveBoth]
@[simp] theorem driveBoth_cmds : (driveBoth dir speed s).cmds = s.cmds := by simp [driveBoth]
@[simp] theorem driveBoth_rst : (driveBoth dir speed s).rst = s.rst := by simp [driveBoth]
@[simp] theorem driveBoth_din : (driveBoth dir speed s).din = s.din := by simp [driveBoth]
@[simp] theorem driveBoth_dinCount : (driveBoth dir speed s).dinCount = s.dinCount := by simp [driveBoth]
@[simp] theorem driveBoth_resetCount : (driveBoth dir speed s).resetCount = s.resetCount := by simp [driveBoth]
@[simp] theorem driveBoth_rsp : (driveBoth dir speed s).rsp = s.rsp := by simp [driveBoth]
@[simp] theorem driveBoth_cfg : (driveBoth dir speed s).cfg = s.cfg := by simp [driveBoth]
end fields

theorem fwdCh_le (c : Config) (m : Motor) : fwdCh c m ≤ 15 := by cases m <;> exact fin11_le _
theorem revCh_le (c : Config) (m : Motor) : revCh c m ≤ 15 := by cases m <;> exact fin11_le _
theorem magCh_le (c : Config) (m : Motor) : magCh c m ≤ 15 := by cases m <;> exact fin11_le _

/-- The machine's three channels of a motor are those of R121. -/
theorem motorChannels_eq (c : Config) (m : Motor) : motorChannels c m = (fwdCh c m, revCh c m, magCh c m) := by
  cases m <;> rfl

/-- The seven open channels are distinct (00_scope R7). -/
theorem motor_channels_distinct {c : Config} (h : c.wf = true) (m : Motor) :
    fwdCh c m ≠ revCh c m ∧ fwdCh c m ≠ magCh c m ∧ revCh c m ≠ magCh c m := by
  have := wf_channels h
  simp only [List.nodup_cons, List.mem_cons, List.not_mem_nil, or_false, not_or] at this
  cases m <;> simp only [fwdCh, revCh, magCh] <;> tauto

/-- The two motors share no channel (00_scope R7). -/
theorem motors_apart {c : Config} (h : c.wf = true) :
    ∀ x ∈ [fwdCh c .m1, revCh c .m1, magCh c .m1], ∀ y ∈ [fwdCh c .m2, revCh c .m2, magCh c .m2], x ≠ y := by
  have := wf_channels h
  simp only [List.nodup_cons, List.mem_cons, List.not_mem_nil, or_false, not_or] at this
  simp only [fwdCh, revCh, magCh, List.mem_cons, List.not_mem_nil, or_false, forall_eq_or_imp, forall_eq]
  tauto

/-- The magnitude is `min(|speed| * 41, 4095)`, exactly (41_actuators R114). -/
theorem motorMag_eq (speed : Int) : motorMag speed = magnitude speed := by
  have hc : clamp ((speed.natAbs : Int) * 41) 0 4095 = ((min (speed.natAbs * 41) 4095 : Nat) : Int) := by
    unfold clamp
    split
    · omega
    · split <;> omega
  rw [motorMag, hc, magnitude, tickOfInt, BitVec.ofInt_natCast]

theorem magnitude_toNat (speed : Int) : (magnitude speed).toNat = min (speed.natAbs * 41) 4095 := by
  rw [magnitude, BitVec.toNat_ofNat]
  omega

/-- The channels of `Run` (41_actuators R114). -/
theorem run_ch (m : Motor) (speed : Int) (s : State) (i : Nat) :
    (run m speed s).ch i =
      if i = magCh s.cfg m then some ⟨0, magnitude speed⟩
      else if i = revCh s.cfg m then some ⟨0, if 0 ≤ speed then 0 else 4095⟩
      else if i = fwdCh s.cfg m then some ⟨0, if 0 ≤ speed then 4095 else 0⟩
      else s.ch i := by
  simp only [run, setValue_eq, isForward, decide_eq_true_eq, motorMag_eq]
  rw [chWrite_ch (magCh_le _ _), chWrite_ch (revCh_le _ _), chWrite_ch (fwdCh_le _ _)]

/-- After `Run`, the motor's three channels are as R114 says. -/
theorem run_motorRuns {s : State} (hc : s.cfg.wf = true) (m : Motor) (speed : Int) : MotorRuns m speed (run m speed s) := by
  obtain ⟨h1, h2, h3⟩ := motor_channels_distinct hc m
  refine ⟨?_, ?_, ?_⟩ <;> rw [run_cfg, motorChannels_eq, run_ch]
  · simp [h1, h2]
  · simp [h3]
  · simp

/-- The events of `Run`, in order (41_actuators R114). -/
theorem run_trace (m : Motor) (speed : Int) (s : State) :
    (run m speed s).trace = (runEvents s.cfg m speed).reverse ++ s.trace := by
  simp only [run, setValue_eq, isForward, decide_eq_true_eq, motorMag_eq]
  rw [chWrite_trace (magCh_le _ _), chWrite_trace (revCh_le _ _), chWrite_trace (fwdCh_le _ _)]
  simp [runEvents, motorChannels_eq]

/-- Channels other than the motor's three. -/
theorem run_ch_other (m : Motor) (speed : Int) (s : State) {i : Nat} (h : i ∉ writtenByMotor s.cfg m) :
    (run m speed s).ch i = s.ch i := by
  simp only [writtenByMotor, motorChannels_eq, List.mem_cons, List.not_mem_nil, or_false, not_or] at h
  rw [run_ch, if_neg h.2.2, if_neg h.2.1, if_neg h.1]

theorem driveBoth_trace (dir : Dir) (speed : Int) (s : State) :
    (driveBoth dir speed s).trace =
      (runEvents s.cfg .m1 (driveSpeeds s.cfg.turnRightM1Fwd dir speed).1 ++
        runEvents s.cfg .m2 (driveSpeeds s.cfg.turnRightM1Fwd dir speed).2).reverse ++ s.trace := by
  simp [driveBoth, run_trace]

theorem driveBoth_ch_other (dir : Dir) (speed : Int) (s : State) {i : Nat} (h1 : i ∉ writtenByMotor s.cfg .m1)
    (h2 : i ∉ writtenByMotor s.cfg .m2) : (driveBoth dir speed s).ch i = s.ch i := by
  rw [driveBoth, run_ch_other _ _ _ (by simpa using h2), run_ch_other _ _ _ h1]

/-- Both motors' channels after `Drive` (41_actuators R116). -/
theorem driveBoth_motorRuns {s : State} (hc : s.cfg.wf = true) (dir : Dir) (speed : Int) :
    MotorRuns .m1 (driveSpeeds s.cfg.turnRightM1Fwd dir speed).1 (driveBoth dir speed s) ∧
    MotorRuns .m2 (driveSpeeds s.cfg.turnRightM1Fwd dir speed).2 (driveBoth dir speed s) := by
  refine ⟨?_, run_motorRuns (by simpa using hc) _ _⟩
  obtain ⟨f, r, m⟩ := run_motorRuns hc .m1 (driveSpeeds s.cfg.turnRightM1Fwd dir speed).1
  have ne := motors_apart hc
  simp only [List.mem_cons, List.not_mem_nil, or_false, forall_eq_or_imp, forall_eq] at ne
  rw [run_cfg, motorChannels_eq] at f r m
  refine ⟨?_, ?_, ?_⟩ <;> rw [driveBoth, run_cfg, run_cfg, motorChannels_eq, run_ch, run_cfg] <;> simp [ne, f, r, m]

end Sys2Proof.Machine
end

