-- ==== Sys2Proof/Laws/Reads.lean ====
section
/-! SUPPORT. One read of the sensor link, in closed form: the bits it takes, the values it makes of them, the events, and what
it leaves. -/

namespace Sys2Proof.Machine

/-! ### Bits -/

/-- After `m` samples, the `n`-th sample from now is sample `m + n` of before. -/
theorem dinBit_drop {s t : State} {m : Nat} (hd : t.din = s.din.drop m) (hn : t.dinCount = s.dinCount + m) (n : Nat) :
    dinBit t n = dinBit s (m + n) := by
  simp [dinBit, hd, hn, Nat.add_assoc]

/-- Entering a bit doubles the accumulated value and adds the bit (42_line_sensor R134). -/
theorem shiftIn_ofNat (v : Nat) (b : Bool) : shiftIn (BitVec.ofNat 10 v) b = BitVec.ofNat 10 (2 * v + b.toNat) := by
  apply BitVec.eq_of_getLsbD_eq
  intro i hi
  cases i with
  | zero => cases b <;> simp [shiftIn, -BitVec.getLsbD_eq_getElem, BitVec.getLsbD_ofNat, Nat.testBit_zero]
  | succ i =>
    have h : (2 * v + b.toNat).testBit (i + 1) = v.testBit i := by
      rw [Nat.testBit_succ]
      congr 1
      cases b <;> simp
      omega
    have hb : ∀ b : Bool, (BitVec.ofBool b).getLsbD (i + 1) = false := by intro b; cases b <;> simp
    have hi' : i < 10 := by omega
    simp only [shiftIn, BitVec.getLsbD_or, BitVec.getLsbD_shiftLeft, BitVec.getLsbD_ofNat, BitVec.getLsbD_setWidth, h, hb]
    simp [hi, hi']

/-- The value of the first `n` samples of a cycle. -/
def prefixValue (s : State) : Nat → Nat
  | 0 => 0
  | n + 1 => 2 * prefixValue s n + (dinBit s n).toNat

theorem prefixValue_ten (s : State) : prefixValue s 10 = sampleValue s 0 := by
  simp only [prefixValue, sampleValue, List.range, List.range.loop, List.map_cons, List.map_nil, List.sum_cons, List.sum_nil, Nat.zero_add]
  omega

/-! ### Sub-cycle and cycle -/

/-- The address level, said of the cycle's number (42_line_sensor R133). -/
theorem addressBit_eq (c k : Nat) : addressBit c k = decide (c / 2 ^ (3 - k) % 2 = 1) := by
  rw [addressBit, Nat.testBit_eq_decide_div_mod_eq]

/-- A sub-cycle in closed form (42_line_sensor R131). -/
theorem subCycle_eq (c : Nat) (acc : Reading) (s : State) (k : Nat) :
    subCycle c (acc, s) k =
      (shiftIn acc (dinBit s 0),
       { s with
         clkO := false
         addrO := if k < 4 then addressBit c k else s.addrO
         din := s.din.tail
         dinCount := s.dinCount + 1
         trace := (subCycleEvents s.cfg c k (dinBit s 0)).reverse ++ s.trace }) := by
  by_cases h : k < 4 <;>
    simp [subCycle, h, subCycleEvents, addressBit_eq, pinSample, dinBit, emit, addrWrite, clkWrite, wait]

/-- The events of the first `n` sub-cycles of cycle `c`. -/
def cycleEvents (s : State) (c n : Nat) : List Event :=
  (List.range n).flatMap fun k => subCycleEvents s.cfg c k (dinBit s k)

/-- The first `n + 1` sub-cycles of a cycle in closed form. -/
theorem subCycles_eq (c : Nat) (s : State) (n : Nat) :
    (List.range (n + 1)).foldl (subCycle c) (0, s) =
      (BitVec.ofNat 10 (prefixValue s (n + 1)),
       { s with
         clkO := false
         addrO := addressBit c (min n 3)
         din := s.din.drop (n + 1)
         dinCount := s.dinCount + (n + 1)
         trace := (cycleEvents s c (n + 1)).reverse ++ s.trace }) := by
  induction n with
  | zero =>
    simp only [List.range_succ, List.range_zero, List.nil_append, List.foldl_cons, List.foldl_nil, subCycle_eq, prefixValue,
      cycleEvents, List.flatMap_cons, List.flatMap_nil]
    rw [show (0 : Reading) = BitVec.ofNat 10 0 from rfl, shiftIn_ofNat]
    simp
  | succ n ih =>
    rw [List.range_succ, List.foldl_append, ih, List.foldl_cons, List.foldl_nil, subCycle_eq, shiftIn_ofNat]
    have hb : dinBit { s with
        clkO := false, addrO := addressBit c (min n 3), din := s.din.drop (n + 1), dinCount := s.dinCount + (n + 1),
        trace := (cycleEvents s c (n + 1)).reverse ++ s.trace } 0 = dinBit s (n + 1) :=
      dinBit_drop rfl rfl 0
    rw [hb]
    have ha : (if n + 1 < 4 then addressBit c (n + 1) else addressBit c (min n 3)) = addressBit c (min (n + 1) 3) := by
      split
      · rw [min_eq_left (by omega)]
      · rw [min_eq_right (by omega), min_eq_right (by omega)]
    have he : cycleEvents s c (n + 1 + 1) = cycleEvents s c (n + 1) ++ subCycleEvents s.cfg c (n + 1) (dinBit s (n + 1)) := by
      rw [cycleEvents, List.range_succ, List.flatMap_append]; simp [cycleEvents]
    rw [he]
    simp [prefixValue, ha, Nat.add_assoc]

/-- A cycle in closed form (42_line_sensor R131, R134). -/
theorem cycle_eq (c : Nat) (s : State) :
    cycle c s =
      (BitVec.ofNat 10 (sampleValue s 0),
       { s with
         clkO := false
         addrO := addressBit c 3
         din := s.din.drop 10
         dinCount := s.dinCount + 10
         trace := (cycleEvents s c 10).reverse ++ s.trace }) := by
  simpa [cycle, prefixValue_ten] using subCycles_eq c s 9

theorem sampleValue_drop {s t : State} {m : Nat} (hd : t.din = s.din.drop m) (hn : t.dinCount = s.dinCount + m) (n : Nat) :
    sampleValue t n = sampleValue s (m + n) := by
  simp only [sampleValue, dinBit_drop hd hn, Nat.add_assoc]

theorem cycleEvents_drop {s t : State} {m : Nat} (hd : t.din = s.din.drop m) (hn : t.dinCount = s.dinCount + m)
    (hc : t.cfg = s.cfg) (c : Nat) :
    cycleEvents t c 10 = (List.range 10).flatMap fun k => subCycleEvents s.cfg c k (dinBit s (m + k)) := by
  simp only [cycleEvents, dinBit_drop hd hn, hc]

/-! ### The read -/

/-- The events of the first `j` cycles of a read that begins now. -/
def cyclesEvents (s : State) (j : Nat) : List Event :=
  (List.range j).flatMap fun c => (List.range 10).flatMap fun k => subCycleEvents s.cfg c k (dinBit s (10 * c + k))

/-- The state of a read after its first `j` cycles, the gate being off. -/
def afterCycles (s : State) (j : Nat) : State :=
  { chWrite s.cfg.gateCh 0 0 s with
    clkO := if j = 0 then s.clkO else false
    addrO := if j = 0 then s.addrO else addressBit (j - 1) 3
    din := s.din.drop (10 * j)
    dinCount := s.dinCount + 10 * j
    trace := (cyclesEvents s j).reverse ++ .wait 2000 :: channelEvent s.cfg s.cfg.gateCh 0 0 :: s.trace }

theorem afterCycles_zero (s : State) : wait Config.tGateSettleUs (chWrite s.cfg.gateCh 0 0 s) = afterCycles s 0 := by
  rw [chWrite_eq (fin11_le _)]
  simp only [afterCycles, chWrite_eq (fin11_le _)]
  rfl

theorem cycle_afterCycles (s : State) (j : Nat) :
    cycle j (afterCycles s j) = (BitVec.ofNat 10 (sampleValue s (10 * j)), afterCycles s (j + 1)) := by
  have hc : (afterCycles s j).cfg = s.cfg := chWrite_cfg _ _ _ _
  have he : cyclesEvents s (j + 1) = cyclesEvents s j ++ cycleEvents (afterCycles s j) j 10 := by
    rw [cycleEvents_drop (s := s) (m := 10 * j) rfl rfl hc]
    simp [cyclesEvents, List.range_succ, List.flatMap_append]
  rw [cycle_eq, sampleValue_drop (s := s) (m := 10 * j) rfl rfl]
  refine Prod.ext (by simp) ?_
  simp only [afterCycles] at he ⊢
  rw [he]
  simp [List.drop_drop, Nat.mul_succ, Nat.add_assoc]

/-! ### The read -/

/-- One read in closed form (42_line_sensor R131, R136, R137). -/
theorem readSensors_eq (s : State) :
    readSensors s = (rawReadings s 0, chWrite s.cfg.gateCh 0 4095 (afterCycles s 6)) := by
  simp only [readSensors, afterCycles_zero, cycle_afterCycles, Nat.reduceAdd, setValue_eq]
  refine Prod.ext ?_ rfl
  simp [rawReadings, Five.ofFn, rawValue]

@[simp] theorem readSensors_raw (s : State) : (readSensors s).1 = rawReadings s 0 := by rw [readSensors_eq]

section fields
variable (s : State)
@[simp] theorem readSensors_inited : (readSensors s).2.inited = s.inited := by simp [readSensors_eq, afterCycles]
@[simp] theorem readSensors_mode : (readSensors s).2.mode = s.mode := by simp [readSensors_eq, afterCycles]
@[simp] theorem readSensors_prescale : (readSensors s).2.prescale = s.prescale := by simp [readSensors_eq, afterCycles]
@[simp] theorem readSensors_calMin : (readSensors s).2.calMin = s.calMin := by simp [readSensors_eq, afterCycles]
@[simp] theorem readSensors_calMax : (readSensors s).2.calMax = s.calMax := by simp [readSensors_eq, afterCycles]
@[simp] theorem readSensors_lastPos : (readSensors s).2.lastPos = s.lastPos := by simp [readSensors_eq, afterCycles]
@[simp] theorem readSensors_clkO : (readSensors s).2.clkO = false := by simp [readSensors_eq, afterCycles]
@[simp] theorem readSensors_addrO : (readSensors s).2.addrO = true := by simp [readSensors_eq, afterCycles, addressBit]
@[simp] theorem readSensors_cmds : (readSensors s).2.cmds = s.cmds := by simp [readSensors_eq, afterCycles]
@[simp] theorem readSensors_rst : (readSensors s).2.rst = s.rst := by simp [readSensors_eq, afterCycles]
@[simp] theorem readSensors_din : (readSensors s).2.din = s.din.drop 60 := by simp [readSensors_eq, afterCycles]
@[simp] theorem readSensors_dinCount : (readSensors s).2.dinCount = s.dinCount + 60 := by
  simp [readSensors_eq, afterCycles]
@[simp] theorem readSensors_resetCount : (readSensors s).2.resetCount = s.resetCount := by
  simp [readSensors_eq, afterCycles]
@[simp] theorem readSensors_rsp : (readSensors s).2.rsp = s.rsp := by simp [readSensors_eq, afterCycles]
@[simp] theorem readSensors_cfg : (readSensors s).2.cfg = s.cfg := by simp [readSensors_eq, afterCycles]
end fields

/-- The 327 events of a read, in order (42_line_sensor R131). -/
theorem readSensors_trace (s : State) : (readSensors s).2.trace = (readEvents s 0).reverse ++ s.trace := by
  have hc : (afterCycles s 6).cfg = s.cfg := chWrite_cfg _ _ _ _
  rw [readSensors_eq, chWrite_trace (fin11_le _), hc]
  simp [afterCycles, readEvents, cyclesEvents]

/-- The channels after a read: the gate's written twice (42_line_sensor R137, R140). -/
theorem readSensors_chs (s : State) :
    (readSensors s).2.chs = (chWrite s.cfg.gateCh 0 4095 (chWrite s.cfg.gateCh 0 0 s)).chs := by
  rw [readSensors_eq, chWrite_eq (fin11_le _), chWrite_eq (fin11_le _)]
  rfl

/-- Channels are views of one field. -/
theorem ch_congr {s t : State} (h : t.chs = s.chs) (i : Nat) : t.ch i = s.ch i := by simp [State.ch, h]

/-- After a read the gate is fully on and the other channels are as before (42_line_sensor R137). -/
theorem readSensors_ch (s : State) (i : Nat) :
    (readSensors s).2.ch i = if i = s.cfg.gateCh.val then some ⟨0, 4095⟩ else s.ch i := by
  rw [ch_congr (readSensors_chs s), chWrite_ch (fin11_le _), chWrite_ch (fin11_le _)]
  by_cases h : i = s.cfg.gateCh.val <;> simp [h]

/-- What a read leaves (42_line_sensor R140). -/
theorem readSensors_leaves (s : State) : ReadLeaves s (readSensors s).2 := by
  constructor
  case gate => rw [readSensors_ch]; simp
  case others => intro i h; rw [readSensors_ch, if_neg (by simpa using h)]
  all_goals simp

/-- A read counts 327 events. -/
theorem readEvents_length (s : State) (n : Nat) : (readEvents s n).length = 327 := by
  have h : ∀ c k b, (subCycleEvents s.cfg c k b).length = if k < 4 then 6 else 5 := by
    intro c k b
    simp only [subCycleEvents]
    split <;> rfl
  simp only [readEvents, List.length_append, List.length_flatMap, h]
  rfl

/-- A raw value fits ten bits (42_line_sensor R134). -/
theorem sampleValue_lt (s : State) (n : Nat) : sampleValue s n < 1024 := by
  have h : ∀ k, (dinBit s k).toNat ≤ 1 := fun k => Bool.toNat_le _
  simp only [sampleValue, List.range, List.range.loop, List.map_cons, List.map_nil, List.sum_cons, List.sum_nil]
  have := h (n + 0); have := h (n + 1); have := h (n + 2); have := h (n + 3); have := h (n + 4)
  have := h (n + 5); have := h (n + 6); have := h (n + 7); have := h (n + 8); have := h (n + 9)
  omega

/-- The five readings are the five raw values. -/
theorem rawReadings_get (s : State) (n : Nat) (i : Fin 5) : ((rawReadings s n).get i).toNat = rawValue s n i := by
  have h : ∀ j, (BitVec.ofNat 10 (rawValue s n j)).toNat = rawValue s n j := fun j => by
    rw [BitVec.toNat_ofNat]
    exact Nat.mod_eq_of_lt (sampleValue_lt s _)
  fin_cases i <;> simp only [rawReadings, Five.ofFn, Five.get] <;> exact h _

/-- A read that begins `m` samples later. -/
theorem rawReadings_drop {s t : State} {m : Nat} (hd : t.din = s.din.drop m) (hn : t.dinCount = s.dinCount + m) (n : Nat) :
    rawReadings t n = rawReadings s (m + n) := by
  simp only [rawReadings, rawValue, sampleValue_drop hd hn, Nat.add_assoc]

/-- The events of a read that begins `m` samples later. -/
theorem readEvents_drop {s t : State} {m : Nat} (hd : t.din = s.din.drop m) (hn : t.dinCount = s.dinCount + m)
    (hc : t.cfg = s.cfg) (n : Nat) : readEvents t n = readEvents s (m + n) := by
  simp only [readEvents, dinBit_drop hd hn, hc, Nat.add_assoc]

/-- Each sub-cycle samples once (42_line_sensor R131). -/
theorem subCycleEvents_samples (c : Config) (n k : Nat) (b : Bool) : (subCycleEvents c n k b).countP isSample = 1 := by
  unfold subCycleEvents; split <;> rfl

/-- A read samples sixty times (42_line_sensor R135). -/
theorem readEvents_samples (s : State) (n : Nat) : (readEvents s n).countP isSample = 60 := by
  rw [readEvents, List.countP_append, List.countP_append, List.countP_flatMap]
  have inner : ∀ c, ((List.range 10).flatMap fun k =>
      subCycleEvents s.cfg c k (dinBit s (n + (10 * c + k)))).countP isSample = 10 := by
    intro c
    rw [List.countP_flatMap]
    simp only [Function.comp_def, subCycleEvents_samples]
    decide
  simp only [Function.comp_def, inner]
  rfl

end Sys2Proof.Machine
end

