-- ==== Sys2Proof/Laws/Calibration.lean ====
section
/-! SUPPORT. The calibration sweep: an iteration's extremes, its merge, and the running ranges after any number of
iterations. -/

namespace Sys2Proof.Machine

@[simp] theorem Five.get_all {α : Type} (a : α) (i : Fin 5) : (Five.all a).get i = a := by fin_cases i <;> rfl

@[simp] theorem Five.get_zipWith {α β γ : Type} (g : α → β → γ) (f : Five α) (h : Five β) (i : Fin 5) :
    (f.zipWith g h).get i = g (f.get i) (h.get i) := by fin_cases i <;> rfl

@[simp] theorem Five.get_map {α β : Type} (g : α → β) (f : Five α) (i : Fin 5) : (f.map g).get i = g (f.get i) := by
  fin_cases i <;> rfl

theorem Five.ext_get {α : Type} {f h : Five α} (e : ∀ i, f.get i = h.get i) : f = h := by
  cases f; cases h
  have h0 := e 0; have h1 := e 1; have h2 := e 2; have h3 := e 3; have h4 := e 4
  simp only [Five.get] at h0 h1 h2 h3 h4
  simp [*]

theorem maxReading_toNat (a b : Reading) : (maxReading a b).toNat = max a.toNat b.toNat := by
  unfold maxReading; split <;> omega

theorem minReading_toNat (a b : Reading) : (minReading a b).toNat = min a.toNat b.toNat := by
  unfold minReading; split <;> omega

theorem mergeMax_toNat (r m : Reading) :
    (mergeMax r m).toNat = if r.toNat < m.toNat then m.toNat else r.toNat := by
  unfold mergeMax; split <;> rfl

theorem mergeMin_toNat (r m : Reading) :
    (mergeMin r m).toNat = if m.toNat < r.toNat then m.toNat else r.toNat := by
  unfold mergeMin; split <;> rfl

/-! ### Five samples -/

/-- The state after `j` reads in a row. -/
def afterReads (s : State) : Nat → State
  | 0 => s
  | j + 1 => (readSensors (afterReads s j)).2

/-- Anything a read keeps, `j` reads keep. -/
theorem afterReads_keeps {γ : Type} (g : State → γ) (h : ∀ t, g (readSensors t).2 = g t) (s : State) (j : Nat) :
    g (afterReads s j) = g s := by
  induction j with
  | zero => rfl
  | succ j ih => rw [afterReads, h, ih]

theorem afterReads_din (s : State) (j : Nat) : (afterReads s j).din = s.din.drop (60 * j) := by
  induction j with
  | zero => simp [afterReads]
  | succ j ih => simp [afterReads, ih, List.drop_drop, Nat.mul_succ]

theorem afterReads_dinCount (s : State) (j : Nat) : (afterReads s j).dinCount = s.dinCount + 60 * j := by
  induction j with
  | zero => simp [afterReads]
  | succ j ih => simp [afterReads, ih, Nat.mul_succ, Nat.add_assoc]

theorem afterReads_raw (s : State) (j : Nat) : rawReadings (afterReads s j) 0 = rawReadings s (60 * j) :=
  rawReadings_drop (afterReads_din s j) (afterReads_dinCount s j) 0

/-- The extremes of five reads in a row that begin at sample 0. -/
def extremesOf (s : State) : Extremes where
  itMax := (((rawReadings s 0).zipWith maxReading (rawReadings s 60)).zipWith maxReading (rawReadings s 120)
    |>.zipWith maxReading (rawReadings s 180)).zipWith maxReading (rawReadings s 240)
  itMin := (((rawReadings s 0).zipWith minReading (rawReadings s 60)).zipWith minReading (rawReadings s 120)
    |>.zipWith minReading (rawReadings s 180)).zipWith minReading (rawReadings s 240)

/-- The five samples of an iteration in closed form (43_calibrator R153). -/
theorem fiveSamples_eq (s : State) : fiveSamples s = (extremesOf s, afterReads s 5) := by
  have h : ∀ j, rawReadings (afterReads s j) 0 = rawReadings s (60 * j) := afterReads_raw s
  have h1 := h 1; have h2 := h 2; have h3 := h 3; have h4 := h 4
  simp only [afterReads] at h1 h2 h3 h4
  simp only [fiveSamples, firstSample, nextSample, readSensors_raw, h1, h2, h3, h4, extremesOf, afterReads]

theorem extremesOf_itMax (s : State) (i : Fin 5) : ((extremesOf s).itMax.get i).toNat = itMaxOf s i 0 := by
  simp [extremesOf, maxReading_toNat, rawReadings_get, itMaxOf, calReading, max_assoc]

theorem extremesOf_itMin (s : State) (i : Fin 5) : ((extremesOf s).itMin.get i).toNat = itMinOf s i 0 := by
  simp [extremesOf, minReading_toNat, rawReadings_get, itMinOf, calReading, min_assoc]

/-! ### One iteration -/

section fields
variable (s : State) (k : Nat)
theorem calIteration_eq : calIteration s k =
    waitMs s.cfg.tCalStepMs (mergeRanges (extremesOf (driveBoth (sweepDir k) Config.calSpeed s))
      (afterReads (driveBoth (sweepDir k) Config.calSpeed s) 5)) := by
  simp [calIteration, fiveSamples_eq, afterReads_keeps State.cfg]
@[simp] theorem calIteration_inited : (calIteration s k).inited = s.inited := by
  simp [calIteration_eq, afterReads_keeps State.inited]
@[simp] theorem calIteration_mode : (calIteration s k).mode = s.mode := by
  simp [calIteration_eq, afterReads_keeps State.mode]
@[simp] theorem calIteration_prescale : (calIteration s k).prescale = s.prescale := by
  simp [calIteration_eq, afterReads_keeps State.prescale]
@[simp] theorem calIteration_lastPos : (calIteration s k).lastPos = s.lastPos := by
  simp [calIteration_eq, afterReads_keeps State.lastPos]
@[simp] theorem calIteration_clkO : (calIteration s k).clkO = false := by simp [calIteration_eq, afterReads]
@[simp] theorem calIteration_addrO : (calIteration s k).addrO = true := by simp [calIteration_eq, afterReads]
@[simp] theorem calIteration_cmds : (calIteration s k).cmds = s.cmds := by
  simp [calIteration_eq, afterReads_keeps State.cmds]
@[simp] theorem calIteration_rst : (calIteration s k).rst = s.rst := by
  simp [calIteration_eq, afterReads_keeps State.rst]
@[simp] theorem calIteration_din : (calIteration s k).din = s.din.drop 300 := by
  simp [calIteration_eq, afterReads_din]
@[simp] theorem calIteration_dinCount : (calIteration s k).dinCount = s.dinCount + 300 := by
  simp [calIteration_eq, afterReads_dinCount]
@[simp] theorem calIteration_resetCount : (calIteration s k).resetCount = s.resetCount := by
  simp [calIteration_eq, afterReads_keeps State.resetCount]
@[simp] theorem calIteration_rsp : (calIteration s k).rsp = s.rsp := by
  simp [calIteration_eq, afterReads_keeps State.rsp]
@[simp] theorem calIteration_cfg : (calIteration s k).cfg = s.cfg := by
  simp [calIteration_eq, afterReads_keeps State.cfg]
end fields

theorem extremesOf_drive (s : State) (d : Dir) (v : Int) : extremesOf (driveBoth d v s) = extremesOf s := by
  have h : ∀ n, rawReadings (driveBoth d v s) n = rawReadings s n := fun n => by
    have := rawReadings_drop (s := s) (t := driveBoth d v s) (m := 0) (by simp) (by simp) n
    simpa using this
  simp [extremesOf, h]

theorem calIteration_calMax (s : State) (k : Nat) :
    (calIteration s k).calMax = s.calMax.zipWith mergeMax (extremesOf s).itMin := by
  simp [calIteration_eq, afterReads_keeps State.calMax, extremesOf_drive]

theorem calIteration_calMin (s : State) (k : Nat) :
    (calIteration s k).calMin = s.calMin.zipWith mergeMin (extremesOf s).itMax := by
  simp [calIteration_eq, afterReads_keeps State.calMin, extremesOf_drive]

/-! ### The sweep -/

/-- The state of a calibration that begins at `s`, after its first `n` iterations. -/
def sweep (s : State) (n : Nat) : State := (List.range n).foldl calIteration (resetRanges s)

theorem sweep_succ (s : State) (n : Nat) : sweep s (n + 1) = calIteration (sweep s n) n := by
  simp [sweep, List.range_succ]

theorem sweep_keeps {γ : Type} (g : State → γ) (h : ∀ t k, g (calIteration t k) = g t) (s : State) (n : Nat) :
    g (sweep s n) = g (resetRanges s) := foldl_keeps g _ h _ _

theorem sweep_din (s : State) (n : Nat) : (sweep s n).din = s.din.drop (300 * n) := by
  induction n with
  | zero => simp [sweep]
  | succ n ih => rw [sweep_succ, calIteration_din, ih, List.drop_drop]; congr 1

theorem sweep_dinCount (s : State) (n : Nat) : (sweep s n).dinCount = s.dinCount + 300 * n := by
  induction n with
  | zero => simp [sweep]
  | succ n ih => rw [sweep_succ, calIteration_dinCount, ih]; omega

theorem sweep_readings (s : State) (n j : Nat) (i : Fin 5) : calReading (sweep s n) 0 j i = calReading s n j i := by
  simp only [calReading, rawValue]
  rw [sampleValue_drop (sweep_din s n) (sweep_dinCount s n)]
  congr 1
  omega

/-- After `n` iterations the ranges are the running ranges (43_calibrator R154). -/
theorem sweep_ranges (s : State) (n : Nat) (i : Fin 5) :
    ((sweep s n).calMax.get i).toNat = runningMax s i n ∧ ((sweep s n).calMin.get i).toNat = runningMin s i n := by
  induction n with
  | zero => constructor <;> simp [sweep, runningMax, runningMin]
  | succ n ih =>
    have hM : itMaxOf (sweep s n) i 0 = itMaxOf s i n := by simp only [itMaxOf, sweep_readings]
    have hm : itMinOf (sweep s n) i 0 = itMinOf s i n := by simp only [itMinOf, sweep_readings]
    rw [sweep_succ, calIteration_calMax, calIteration_calMin, Five.get_zipWith, Five.get_zipWith, mergeMax_toNat,
      mergeMin_toNat, extremesOf_itMax, extremesOf_itMin, ih.1, ih.2, hM, hm]
    exact ⟨rfl, rfl⟩

/-- A calibration in closed form (43_calibrator R150). -/
theorem calibrate_eq (s : State) : calibrate s = driveBoth .stop 0 (sweep s 100) := rfl

/-- Channels other than the motors' and the gate. -/
theorem sweep_ch_other (s : State) (n : Nat) {i : Nat} (h1 : i ∉ writtenByMotor s.cfg .m1) (h2 : i ∉ writtenByMotor s.cfg .m2)
    (hg : i ≠ s.cfg.gateCh.val) : (sweep s n).ch i = s.ch i := by
  have reads : ∀ t : State, t.cfg = s.cfg → ∀ j, (afterReads t j).ch i = t.ch i := by
    intro t ht j
    induction j with
    | zero => rfl
    | succ j ih => rw [afterReads, readSensors_ch, afterReads_keeps State.cfg (by simp), ht, if_neg hg, ih]
  induction n with
  | zero => rfl
  | succ n ih =>
    have hc : (sweep s n).cfg = s.cfg := by rw [sweep_keeps State.cfg (by simp)]; rfl
    rw [sweep_succ, calIteration_eq, ch_congr (waitMs_chs _ _), ch_congr (mergeRanges_chs _ _), reads _ (by simpa using hc),
      driveBoth_ch_other _ _ _ (by rwa [hc]) (by rwa [hc]), ih]

/-- The events of `j` reads in a row. -/
theorem afterReads_trace (s : State) (j : Nat) :
    (afterReads s j).trace = ((List.range j).flatMap fun i => readEvents s (60 * i)).reverse ++ s.trace := by
  induction j with
  | zero => rfl
  | succ j ih =>
    rw [afterReads, readSensors_trace, ih,
      readEvents_drop (afterReads_din s j) (afterReads_dinCount s j) (afterReads_keeps State.cfg (by simp) s j)]
    simp [List.range_succ]

theorem drive_sweepDir_trace (s : State) (k : Nat) :
    (driveBoth (sweepDir k) Config.calSpeed s).trace =
      (pivotEvents s.cfg (decide (k < 25 ∨ 75 ≤ k))).reverse ++ s.trace := by
  rw [driveBoth_trace]
  congr 2
  by_cases h : k < 25 ∨ 75 ≤ k <;> cases e : s.cfg.turnRightM1Fwd <;>
    simp [pivotEvents, sweepDir, h, e, driveSpeeds, Config.calSpeed]

/-- The events of the first `n` iterations (43_calibrator R150). -/
theorem sweep_trace (s : State) (n : Nat) :
    (sweep s n).trace = ((List.range n).flatMap (calIterationEvents s)).reverse ++ s.trace := by
  induction n with
  | zero => rfl
  | succ n ih =>
    have hc : (sweep s n).cfg = s.cfg := by rw [sweep_keeps State.cfg (by simp)]; rfl
    have hr : ∀ i, readEvents (driveBoth (sweepDir n) Config.calSpeed (sweep s n)) (60 * i) = readEvents s (60 * (5 * n + i)) := by
      intro i
      rw [readEvents_drop (s := s) (m := 300 * n) (by rw [driveBoth_din, sweep_din])
        (by rw [driveBoth_dinCount, sweep_dinCount]) (by rw [driveBoth_cfg, hc])]
      congr 1
      omega
    rw [sweep_succ, calIteration_eq, waitMs_trace, mergeRanges_trace, afterReads_trace, drive_sweepDir_trace, ih, hc]
    simp only [hr]
    simp [List.range_succ, calIterationEvents]

/-- An iteration counts 1642 events (43_calibrator R150). -/
theorem calIterationEvents_length (s : State) (k : Nat) : (calIterationEvents s k).length = 1642 := by
  simp only [calIterationEvents, pivotEvents, runEvents, List.length_append, List.length_flatMap, readEvents_length]
  rfl

/-- After a sweep of at least one iteration the gate is fully on. -/
theorem sweep_gate (s : State) (n : Nat) : (sweep s (n + 1)).ch s.cfg.gateCh = some ⟨0, 4095⟩ := by
  have hc : (afterReads (driveBoth (sweepDir n) Config.calSpeed (sweep s n)) 4).cfg = s.cfg := by
    rw [afterReads_keeps State.cfg (by simp), driveBoth_cfg, sweep_keeps State.cfg (by simp)]; rfl
  rw [sweep_succ, calIteration_eq, ch_congr (waitMs_chs _ _), ch_congr (mergeRanges_chs _ _), afterReads, readSensors_ch, hc,
    if_pos rfl]

/-! ### The running ranges in closed form (43_calibrator R158) -/

theorem itMaxOf_le_1023 (s : State) (i : Fin 5) (k : Nat) : itMaxOf s i k ≤ 1023 := by
  have h : ∀ j, calReading s k j i ≤ 1023 := fun j => by
    have := sampleValue_lt s (60 * (5 * k + j) + 10 * (i.val + 1))
    simp only [calReading, rawValue]
    omega
  have := h 0; have := h 1; have := h 2; have := h 3; have := h 4
  simp only [itMaxOf]
  omega

/-- The running maximum is the largest iteration minimum. -/
theorem runningMax_spec (s : State) (i : Fin 5) (n : Nat) :
    (∀ k < n, itMinOf s i k ≤ runningMax s i n) ∧
    ((∃ k < n, runningMax s i n = itMinOf s i k) ∨ (runningMax s i n = 0 ∧ ∀ k < n, itMinOf s i k = 0)) := by
  induction n with
  | zero => exact ⟨by omega, .inr ⟨rfl, by omega⟩⟩
  | succ n ih =>
    obtain ⟨hle, hex⟩ := ih
    simp only [runningMax]
    split
    · next h =>
      refine ⟨fun k hk => ?_, .inl ⟨n, by omega, rfl⟩⟩
      rcases Nat.lt_succ_iff_lt_or_eq.1 hk with hk | rfl
      · exact (hle k hk).trans h.le
      · exact le_rfl
    · next h =>
      refine ⟨fun k hk => ?_, ?_⟩
      · rcases Nat.lt_succ_iff_lt_or_eq.1 hk with hk | rfl
        · exact hle k hk
        · omega
      · rcases hex with ⟨k, hk, e⟩ | ⟨e, hz⟩
        · exact .inl ⟨k, by omega, e⟩
        · exact .inl ⟨n, by omega, by omega⟩

/-- The running minimum is the smallest iteration maximum. -/
theorem runningMin_spec (s : State) (i : Fin 5) (n : Nat) :
    (∀ k < n, runningMin s i n ≤ itMaxOf s i k) ∧
    ((∃ k < n, runningMin s i n = itMaxOf s i k) ∨ (runningMin s i n = 1023 ∧ ∀ k < n, itMaxOf s i k = 1023)) := by
  induction n with
  | zero => exact ⟨by omega, .inr ⟨rfl, by omega⟩⟩
  | succ n ih =>
    obtain ⟨hle, hex⟩ := ih
    have hb := itMaxOf_le_1023 s i n
    simp only [runningMin]
    split
    · next h =>
      refine ⟨fun k hk => ?_, .inl ⟨n, by omega, rfl⟩⟩
      rcases Nat.lt_succ_iff_lt_or_eq.1 hk with hk | rfl
      · exact h.le.trans (hle k hk)
      · exact le_rfl
    · next h =>
      refine ⟨fun k hk => ?_, ?_⟩
      · rcases Nat.lt_succ_iff_lt_or_eq.1 hk with hk | rfl
        · exact hle k hk
        · omega
      · rcases hex with ⟨k, hk, e⟩ | ⟨e, hz⟩
        · exact .inl ⟨k, by omega, e⟩
        · exact .inl ⟨n, by omega, by omega⟩

end Sys2Proof.Machine
end

