-- ==== Sys2Proof/Laws/Decode.lean ====
section
/-! SUPPORT. The fields of a packed word, the codes of the enumerations, and what a decoded word says. -/

namespace Sys2Proof

/-! ### Fields of a packed word -/

@[simp] theorem packWord_op (op a : Byte) (b c : Half) : (packWord op a b c).op = op := by
  apply BitVec.eq_of_getLsbD_eq; intro i hi
  simp only [packWord, Command.op, BitVec.getLsbD_extractLsb', BitVec.getLsbD_append]
  simp [hi, show ¬ 40 + i < 16 by omega, show ¬ 40 + i - 16 < 16 by omega, show ¬ 40 + i - 16 - 16 < 8 by omega,
    show 40 + i - 16 - 16 - 8 = i by omega]

@[simp] theorem packWord_a (op a : Byte) (b c : Half) : (packWord op a b c).a = a := by
  apply BitVec.eq_of_getLsbD_eq; intro i hi
  simp only [packWord, Command.a, BitVec.getLsbD_extractLsb', BitVec.getLsbD_append]
  simp [hi, show ¬ 32 + i < 16 by omega, show ¬ 32 + i - 16 < 16 by omega, show 32 + i - 16 - 16 = i by omega]

@[simp] theorem packWord_b (op a : Byte) (b c : Half) : (packWord op a b c).b = b := by
  apply BitVec.eq_of_getLsbD_eq; intro i hi
  simp only [packWord, Command.b, BitVec.getLsbD_extractLsb', BitVec.getLsbD_append]
  simp [hi, show ¬ 16 + i < 16 by omega, show 16 + i - 16 = i by omega]

@[simp] theorem packWord_c (op a : Byte) (b c : Half) : (packWord op a b c).c = c := by
  apply BitVec.eq_of_getLsbD_eq; intro i hi
  simp only [packWord, Command.c, BitVec.getLsbD_extractLsb', BitVec.getLsbD_append]
  simp [hi]

/-- A word is the packing of its fields (30_encoding R70). -/
theorem packWord_fields (w : Command) : packWord w.op w.a w.b w.c = w := by
  apply BitVec.eq_of_getLsbD_eq; intro i hi
  simp only [packWord, Command.op, Command.a, Command.b, Command.c, BitVec.getLsbD_extractLsb', BitVec.getLsbD_append]
  split
  · simp [*]
  · split
    · simp [*, show 16 + (i - 16) = i by omega]
    · split
      · simp [*, show 32 + (i - 16 - 16) = i by omega]
      · simp [show i - 16 - 16 - 8 < 8 by omega, show 40 + (i - 16 - 16 - 8) = i by omega]

@[simp] theorem tickField_fieldOfTick (t : Tick) : tickField (fieldOfTick t) = t := by
  apply BitVec.eq_of_getLsbD_eq; intro i hi
  simp only [tickField, fieldOfTick, BitVec.getLsbD_extractLsb']
  rw [BitVec.getLsbD_append]
  simp [hi]

@[simp] theorem tickReserved_fieldOfTick (t : Tick) : tickReserved (fieldOfTick t) = 0 := by
  apply BitVec.eq_of_getLsbD_eq; intro i hi
  simp only [tickReserved, fieldOfTick, BitVec.getLsbD_extractLsb']
  rw [BitVec.getLsbD_append]
  simp

/-- A field whose high four bits are zero is the field of its tick. -/
theorem fieldOfTick_tickField {f : Half} (h : tickReserved f = 0) : fieldOfTick (tickField f) = f := by
  apply BitVec.eq_of_getLsbD_eq; intro i hi
  simp only [tickField, fieldOfTick, BitVec.getLsbD_extractLsb', BitVec.getLsbD_append]
  split
  · simp [*]
  · have := congrArg (fun v : BitVec 4 => v.getLsbD (i - 12)) h
    simp only [tickReserved, BitVec.getLsbD_extractLsb', show 12 + (i - 12) = i by omega] at this
    simpa [show i - 12 < 4 by omega] using this.symm

/-! ### Codes -/

theorem dirOfCode_dirCode {d : Coded Dir} (h : d.dirWF = true) : dirOfCode (dirCode d) = d := by
  cases d with
  | named d => cases d <;> rfl
  | outside code =>
    simp only [Coded.dirWF, decide_eq_true_eq] at h
    simp only [dirCode, dirOfCode]
    split <;> first | omega | rfl

theorem whichOfCode_whichCode {d : Coded Which} (h : d.whichWF = true) : whichOfCode (whichCode d) = d := by
  cases d with
  | named d => cases d <;> rfl
  | outside code =>
    simp only [Coded.whichWF, decide_eq_true_eq] at h
    simp only [whichCode, whichOfCode]
    split <;> first | omega | rfl

theorem dirCode_dirOfCode (code : Byte) : dirCode (dirOfCode code) = code ∧ (dirOfCode code).dirWF = true := by
  revert code; decide

theorem whichCode_whichOfCode (code : Byte) : whichCode (whichOfCode code) = code ∧ (whichOfCode code).whichWF = true := by
  revert code; decide

/-! ### Acceptance -/

@[simp] theorem accept_true (i : Instr) : accept true i = .ok i := rfl

/-- What an accepted word says: its reserved fields are zero, and it is this command. -/
theorem accept_eq_ok {b : Bool} {i j : Instr} : accept b i = .ok j ↔ b = true ∧ i = j := by
  cases b <;> simp [accept]

/-- Which words are not decoded, by the number of the opcode. -/
theorem accept_isError {b : Bool} {i : Instr} : (∃ e, accept b i = .error e) ↔ b = false := by
  cases b <;> simp [accept]

end Sys2Proof
end

