-- ==== Sys2Proof/Laws/Position.lean ====
section
/-! SUPPORT. The arithmetic helpers, the normaliser and the position: exact values and bounds. -/

namespace Sys2Proof.Machine

/-! ### The helpers of 00_scope R13 -/

theorem clamp_eq {lo hi : Int} (h : lo ≤ hi) (v : Int) : clamp v lo hi = max lo (min v hi) := by
  unfold clamp
  split
  · omega
  · split <;> omega

/-- `floor_div` for a positive divisor. -/
theorem floorDiv_pos (n : Int) {d : Int} (h : 0 < d) : floorDiv n d * d ≤ n ∧ n < (floorDiv n d + 1) * d := by
  have e : floorDiv n d = n / d := Int.fdiv_eq_ediv_of_nonneg n h.le
  rw [e]
  refine ⟨Int.ediv_mul_le n h.ne', ?_⟩
  have := Int.lt_ediv_add_one_mul_self n h
  linarith

/-- `floor_div` for a negative divisor. -/
theorem floorDiv_neg (n : Int) {d : Int} (h : d < 0) : n ≤ floorDiv n d * d ∧ (floorDiv n d + 1) * d < n := by
  have e : floorDiv n d = floorDiv (-n) (-d) := (Int.neg_fdiv_neg ..).symm
  obtain ⟨h1, h2⟩ := floorDiv_pos (-n) (d := -d) (by omega)
  rw [e]
  constructor
  · have : floorDiv (-n) (-d) * -d = -(floorDiv (-n) (-d) * d) := by ring
    omega
  · have : (floorDiv (-n) (-d) + 1) * -d = -((floorDiv (-n) (-d) + 1) * d) := by ring
    omega

/-- `round_div` is within half a unit, below and above. -/
theorem roundDiv_bounds (n : Int) {d : Int} (h : 0 < d) :
    2 * n - d < 2 * (roundDiv n d * d) ∧ 2 * (roundDiv n d * d) ≤ 2 * n + d := by
  obtain ⟨h1, h2⟩ := floorDiv_pos (2 * n + d) (d := 2 * d) (by omega)
  rw [← roundDiv] at h1 h2
  constructor
  · have : (roundDiv n d + 1) * (2 * d) = 2 * (roundDiv n d * d) + 2 * d := by ring
    omega
  · have : roundDiv n d * (2 * d) = 2 * (roundDiv n d * d) := by ring
    omega

theorem tickOfInt_toNat {v : Int} (h0 : 0 ≤ v) (h1 : v ≤ 4095) : ((tickOfInt v).toNat : Int) = v := by
  rw [tickOfInt, BitVec.toNat_ofInt]
  omega

theorem resultOfInt_toNat {v : Int} (h0 : 0 ≤ v) (h1 : v ≤ 65535) : ((resultOfInt v).toNat : Int) = v := by
  rw [resultOfInt, BitVec.toNat_ofInt]
  omega

theorem resultOfReading_toNat (r : Reading) : (resultOfReading r).toNat = r.toNat := by
  have := r.isLt
  simp [resultOfReading, BitVec.toNat_setWidth]
  omega

/-! ### The servo and LED ticks -/

/-- The tick of a pulse width is the nearest integer, and fits (41_actuators R120). -/
theorem servoTick_spec {us : Nat} (h : us ≤ 2500) :
    (us : Int) * 4096 * 2 - 20000 < 2 * ((servoTick us).toNat : Int) * 20000 ∧
    2 * ((servoTick us).toNat : Int) * 20000 ≤ (us : Int) * 4096 * 2 + 20000 := by
  obtain ⟨h1, h2⟩ := roundDiv_bounds ((us : Int) * 4096) (d := 20000) (by omega)
  have e : ((servoTick us).toNat : Int) = roundDiv ((us : Int) * 4096) 20000 := by
    rw [servoTick]
    exact tickOfInt_toNat (by simp only [Config.ticks, Config.servoPeriodUs]; omega)
      (by simp only [Config.ticks, Config.servoPeriodUs]; omega)
  rw [e]
  omega

theorem ledTick_toNat (level : Int) : ((ledTick level).toNat : Int) = max 0 (min (level * 4) 4095) := by
  rw [ledTick, clamp_eq (by omega)]
  exact tickOfInt_toNat (by omega) (by omega)

/-! ### The normaliser -/

theorem normValue_range (lo hi raw : Reading) : 0 ≤ normValue lo hi raw ∧ normValue lo hi raw ≤ 1000 := by
  simp only [normValue]
  split
  · omega
  · rw [clamp_eq (by omega)]; omega

/-- `Norm` is what R166 to R168 say. -/
theorem normValue_isNorm (lo hi raw : Reading) : IsNorm lo hi raw (normValue lo hi raw) := by
  refine ⟨(normValue_range lo hi raw).1, (normValue_range lo hi raw).2, fun h => by simp only [normValue, h, if_true],
    fun h => ⟨floorDiv (((raw.toNat : Int) - lo.toNat) * 1000) (hi.toNat - lo.toNat), ?_, ?_⟩⟩
  · split
    · next hp => exact floorDiv_pos _ hp
    · next hp => exact floorDiv_neg _ (by omega)
  · simp only [normValue, h, if_false]
    exact clamp_eq (by omega) _

theorem normalise_get (s : State) (raw : Five Reading) (i : Fin 5) :
    (normalise s raw).get i = normValue (s.calMin.get i) (s.calMax.get i) (raw.get i) := by fin_cases i <;> rfl

theorem normalise_range (s : State) (raw : Five Reading) (i : Fin 5) :
    0 ≤ (normalise s raw).get i ∧ (normalise s raw).get i ≤ 1000 := by
  rw [normalise_get]
  exact normValue_range _ _ _

theorem normalise_congr {s t : State} (h0 : t.calMin = s.calMin) (h1 : t.calMax = s.calMax) (raw : Five Reading) :
    normalise t raw = normalise s raw := by simp [normalise, h0, h1]

/-! ### The position -/

theorem contribution_cases (x : Int) : (50 < 1000 - x ∧ contribution x = 1000 - x) ∨ (1000 - x ≤ 50 ∧ contribution x = 0) := by
  unfold contribution inverted
  split <;> omega

theorem contribution_nonneg (x : Int) : 0 ≤ contribution x := by
  rcases contribution_cases x with h | h <;> omega

theorem detected_iff (x : Five Int) : detected x = true ↔ ∃ i : Fin 5, 200 < 1000 - x.get i := by
  simp only [detected, List.any_eq_true, List.mem_finRange, true_and, decide_eq_true_eq]
  rfl

theorem plainSum_eq (x : Five Int) :
    plainSum x = ((List.finRange 5).map fun i => if 50 < 1000 - x.get i then 1000 - x.get i else 0).sum := by
  have h : List.finRange 5 = [0, 1, 2, 3, 4] := by decide
  simp only [h, List.map_cons, List.map_nil, List.sum_cons, List.sum_nil, plainSum, contribution, inverted, Five.get]
  omega

theorem weightedSum_eq (x : Five Int) :
    weightedSum x =
      ((List.finRange 5).map fun i => if 50 < 1000 - x.get i then (1000 - x.get i) * (i.val * 1000 : Nat) else 0).sum := by
  have h : List.finRange 5 = [0, 1, 2, 3, 4] := by decide
  simp only [h, List.map_cons, List.map_nil, List.sum_cons, List.sum_nil, weightedSum, contribution, inverted, Five.get]
  norm_num
  split_ifs <;> omega

/-- A detected line has a plain sum of at least 201 (44_position R173). -/
theorem plainSum_pos {x : Five Int} (h : detected x = true) : 201 ≤ plainSum x := by
  obtain ⟨i, hi⟩ := (detected_iff x).1 h
  have n0 := contribution_nonneg x.v0; have n1 := contribution_nonneg x.v1; have n2 := contribution_nonneg x.v2
  have n3 := contribution_nonneg x.v3; have n4 := contribution_nonneg x.v4
  have c : 201 ≤ contribution (x.get i) := by rcases contribution_cases (x.get i) with h | h <;> omega
  have d : contribution (x.get i) ≤ plainSum x := by fin_cases i <;> simp only [Five.get, plainSum] <;> omega
  omega

/-- The weighted sum is between 0 and 4000 times the plain sum. -/
theorem weightedSum_bounds (x : Five Int) : 0 ≤ weightedSum x ∧ weightedSum x ≤ 4000 * plainSum x := by
  have n0 := contribution_nonneg x.v0; have n1 := contribution_nonneg x.v1; have n2 := contribution_nonneg x.v2
  have n3 := contribution_nonneg x.v3; have n4 := contribution_nonneg x.v4
  simp only [weightedSum, plainSum]
  omega

/-- The position of a detected line: the weighted mean rounded down, in [0,4000] (44_position R170, R173). -/
theorem positionOf_spec {x : Five Int} (h : detected x = true) :
    positionOf x * plainSum x ≤ weightedSum x ∧ weightedSum x < (positionOf x + 1) * plainSum x ∧
    0 ≤ positionOf x ∧ positionOf x ≤ 4000 := by
  have hp := plainSum_pos h
  obtain ⟨w0, w1⟩ := weightedSum_bounds x
  obtain ⟨h1, h2⟩ := floorDiv_pos (weightedSum x) (d := plainSum x) (by omega)
  rw [← positionOf] at h1 h2
  refine ⟨h1, h2, ?_, ?_⟩
  · by_contra hn
    have : (positionOf x + 1) * plainSum x ≤ 0 := by nlinarith
    omega
  · by_contra hn
    have : 4001 * plainSum x ≤ positionOf x * plainSum x := by nlinarith
    omega

theorem fallback_range (p : BitVec 12) : fallbackPosition p = 0 ∨ fallbackPosition p = 4000 := by
  unfold fallbackPosition; split <;> simp

/-! ### The two commands in closed form -/

/-- A read taken after initialisation takes the bits the state began with. -/
theorem rawReadings_afterInit (s : State) (n : Nat) : rawReadings s.afterInit n = rawReadings s n := by
  have := rawReadings_drop (s := s) (t := s.afterInit) (m := 0) (by simp) (by simp) n
  simpa using this

theorem execRdcal_eq (s : State) :
    execRdcal s = .next (respond .ok ((normalisedRead s).map resultOfInt) (readSensors s.afterInit).2) := by
  simp only [execRdcal, withInit_eq, readSensors_raw, rawReadings_afterInit, normalisedRead]
  rw [normalise_congr (s := s) (by simp) (by simp)]

theorem execRdpos_eq (s : State) :
    execRdpos s = .next (
      if detected (normalisedRead s) then
        respond .ok ⟨resultOfInt (positionOf (normalisedRead s)), 0, 0, 0, 0⟩
          (setLastPos (positionOf (normalisedRead s)) (readSensors s.afterInit).2)
      else respond .ok ⟨resultOfInt (fallbackPosition s.lastPos), 0, 0, 0, 0⟩ (readSensors s.afterInit).2) := by
  simp only [execRdpos, withInit_eq, readSensors_raw, rawReadings_afterInit, normalisedRead, position]
  rw [normalise_congr (s := s) (by simp) (by simp)]
  split <;> simp [*]

end Sys2Proof.Machine
end

