-- ==== Sys2Proof/Laws/Exec.lean ====
section
/-! SUPPORT. Each command as one equation: it always completes, and this is the state it ends in. -/

namespace Sys2Proof.Machine

theorem exec_init (s : State) : exec .init s = .next (respondOk s.afterInit) := rfl

theorem exec_setch (ch : Byte) (on off : Tick) (s : State) :
    exec (.setch ch on off) s = .next (
      if 15 < ch.toNat then respondIgnored s.afterInit else respondOk (chWrite ch.toNat on off s.afterInit)) :=
  rfl

theorem exec_srvang (ch : Byte) (deg : Half) (s : State) :
    exec (.srvang ch deg) s = .next (
      if 180 < deg.toNat ∨ 15 < ch.toNat then respondIgnored s.afterInit
      else respondOk (chWrite ch.toNat 0 (servoTick ((deg.toNat * 10 + 600 : Nat) : Int)) s.afterInit)) := by
  show execSrvang ch deg s = _
  simp only [execSrvang, withInit_eq, zext16, zext8, pulseUs, setValue_eq]
  by_cases h : 180 < deg.toNat
  · simp [h]
  · by_cases h' : 15 < ch.toNat
    · simp [h']
    · simp [h, h']

theorem exec_srvpls (ch : Byte) (us : Half) (s : State) :
    exec (.srvpls ch us) s = .next (
      if us.toNat < 500 ∨ 2500 < us.toNat ∨ 15 < ch.toNat then respondIgnored s.afterInit
      else respondOk (chWrite ch.toNat 0 (servoTick us.toNat) s.afterInit)) := by
  show execSrvpls ch us s = _
  simp only [execSrvpls, withInit_eq]
  by_cases h : us.toNat < 500 ∨ 2500 < us.toNat
  · rw [if_pos (show us.toNat < 500 ∨ 2500 < us.toNat ∨ 15 < ch.toNat by tauto)]
    exact congrArg Host.Outcome.next (if_pos h)
  · refine (congrArg Host.Outcome.next (if_neg h)).trans ?_
    by_cases h' : 15 < ch.toNat
    · rw [if_pos (show us.toNat < 500 ∨ 2500 < us.toNat ∨ 15 < ch.toNat by tauto)]
      exact congrArg Host.Outcome.next (if_pos h')
    · rw [if_neg (show ¬ (us.toNat < 500 ∨ 2500 < us.toNat ∨ 15 < ch.toNat) by tauto)]
      exact congrArg Host.Outcome.next (if_neg h')

theorem exec_setled (id : Byte) (level : Half) (s : State) :
    exec (.setled id level) s = .next (
      if id.toNat < 1 ∨ 5 < id.toNat then respondIgnored s.afterInit
      else respondOk (chWrite (10 + id.toNat) 0 (ledTick level.toInt) s.afterInit)) := rfl

theorem exec_runmot (id : Byte) (speed : Half) (s : State) :
    exec (.runmot id speed) s = .next (
      match motorOfId id with
      | some m => respondOk (run m speed.toInt s.afterInit)
      | none => respondIgnored s.afterInit) := rfl

theorem exec_drive (d : Dir) (speed : Half) (s : State) :
    exec (.drive (.named d) speed) s = .next (respondOk (driveBoth d speed.toInt s.afterInit)) := rfl

theorem exec_drive_outside (code : Byte) (speed : Half) (s : State) :
    exec (.drive (.outside code) speed) s = .next (respondIgnored s.afterInit) := rfl

theorem exec_drivefor (d : Dir) (speed seconds : Half) (s : State) :
    exec (.drivefor (.named d) speed seconds) s = .next (
      respondOk (driveBoth .stop 0 (waitMs (seconds.toNat * 1000) (driveBoth d speed.toInt s.afterInit)))) :=
  rfl

theorem exec_drivefor_outside (code : Byte) (speed seconds : Half) (s : State) :
    exec (.drivefor (.outside code) speed seconds) s = .next (respondIgnored s.afterInit) := rfl

theorem exec_stopmot_m1 (s : State) : exec (.stopmot (.named .m1)) s = .next (respondOk (run .m1 0 s.afterInit)) :=
  rfl

theorem exec_stopmot_m2 (s : State) : exec (.stopmot (.named .m2)) s = .next (respondOk (run .m2 0 s.afterInit)) :=
  rfl

theorem exec_stopmot_both (s : State) :
    exec (.stopmot (.named .both)) s = .next (respondOk (run .m2 0 (run .m1 0 s.afterInit))) := rfl

theorem exec_stopmot_outside (code : Byte) (s : State) :
    exec (.stopmot (.outside code)) s = .next (respondIgnored s.afterInit) := rfl

theorem exec_rdraw (s : State) :
    exec .rdraw s = .next (respond .ok ((rawReadings s 0).map resultOfReading) (readSensors s.afterInit).2) := by
  show execRdraw s = _
  simp only [execRdraw, withInit_eq, readSensors_raw, rawReadings_afterInit]

theorem exec_calib (s : State) : exec .calib s = .next (respondOk (calibrate s.afterInit)) := rfl

theorem exec_getmax (s : State) : exec .getmax s = .next (respond .ok (s.calMax.map resultOfReading) s) := rfl

theorem exec_getmin (s : State) : exec .getmin s = .next (respond .ok (s.calMin.map resultOfReading) s) := rfl

theorem exec_rdcal (s : State) :
    exec .rdcal s = .next (respond .ok ((normalisedRead s).map resultOfInt) (readSensors s.afterInit).2) := execRdcal_eq s

theorem exec_rdpos (s : State) :
    exec .rdpos s = .next (
      if detected (normalisedRead s) then
        respond .ok ⟨resultOfInt (positionOf (normalisedRead s)), 0, 0, 0, 0⟩
          (setLastPos (positionOf (normalisedRead s)) (readSensors s.afterInit).2)
      else respond .ok ⟨resultOfInt (fallbackPosition s.lastPos), 0, 0, 0, 0⟩ (readSensors s.afterInit).2) := execRdpos_eq s

theorem driveBoth_stop (v : Int) (s : State) : driveBoth .stop v s = run .m2 0 (run .m1 0 s) := by
  simp only [driveBoth, driveSpeeds]

/-- Everything the own work of a command that reaches `t` can be: the response and what stands before it. The eight shapes
cover all fifteen commands. -/
theorem exec_cases {i : Instr} {s t : State} (e : exec i s = .next t) :
    (∃ st, t = respond st (.all 0) s.afterInit) ∨
    (∃ ch on off, t = respondOk (chWrite ch on off s.afterInit)) ∨
    (∃ m v, t = respondOk (run m v s.afterInit)) ∨
    (∃ d v, t = respondOk (driveBoth d v s.afterInit)) ∨
    (∃ d v ms, t = respondOk (driveBoth .stop 0 (waitMs ms (driveBoth d v s.afterInit)))) ∨
    (i = .calib ∧ t = respondOk (calibrate s.afterInit)) ∨
    ((i = .rdraw ∨ i = .rdcal ∨ i = .rdpos) ∧ ∃ r, t = respond .ok r (readSensors s.afterInit).2) ∨
    (i = .rdpos ∧ detected (normalisedRead s) = true ∧
      ∃ r, t = respond .ok r (setLastPos (positionOf (normalisedRead s)) (readSensors s.afterInit).2)) ∨
    ((i = .getmax ∨ i = .getmin) ∧ ∃ r, t = respond .ok r s) := by
  cases i with
  | init => rw [exec_init] at e; cases e; exact .inl ⟨.ok, rfl⟩
  | setch ch on off =>
    rw [exec_setch] at e; cases e; split
    exacts [.inl ⟨.ignored, rfl⟩, .inr (.inl ⟨_, _, _, rfl⟩)]
  | srvang ch deg =>
    rw [exec_srvang] at e; cases e; split
    exacts [.inl ⟨.ignored, rfl⟩, .inr (.inl ⟨_, _, _, rfl⟩)]
  | srvpls ch us =>
    rw [exec_srvpls] at e; cases e; split
    exacts [.inl ⟨.ignored, rfl⟩, .inr (.inl ⟨_, _, _, rfl⟩)]
  | setled id level =>
    rw [exec_setled] at e; cases e; split
    exacts [.inl ⟨.ignored, rfl⟩, .inr (.inl ⟨_, _, _, rfl⟩)]
  | runmot id speed =>
    rw [exec_runmot] at e; cases e; split
    exacts [.inr (.inr (.inl ⟨_, _, rfl⟩)), .inl ⟨.ignored, rfl⟩]
  | drive dir speed =>
    cases dir with
    | named d => rw [exec_drive] at e; cases e; exact .inr (.inr (.inr (.inl ⟨_, _, rfl⟩)))
    | outside c => rw [exec_drive_outside] at e; cases e; exact .inl ⟨.ignored, rfl⟩
  | drivefor dir speed seconds =>
    cases dir with
    | named d => rw [exec_drivefor] at e; cases e; exact .inr (.inr (.inr (.inr (.inl ⟨_, _, _, rfl⟩))))
    | outside c => rw [exec_drivefor_outside] at e; cases e; exact .inl ⟨.ignored, rfl⟩
  | stopmot which =>
    cases which with
    | named w =>
      cases w with
      | m1 => rw [exec_stopmot_m1] at e; cases e; exact .inr (.inr (.inl ⟨_, _, rfl⟩))
      | m2 => rw [exec_stopmot_m2] at e; cases e; exact .inr (.inr (.inl ⟨_, _, rfl⟩))
      | both =>
        rw [exec_stopmot_both, ← driveBoth_stop 0 s.afterInit] at e
        cases e
        exact .inr (.inr (.inr (.inl ⟨_, _, rfl⟩)))
    | outside c => rw [exec_stopmot_outside] at e; cases e; exact .inl ⟨.ignored, rfl⟩
  | rdraw =>
    rw [exec_rdraw] at e; cases e
    exact .inr (.inr (.inr (.inr (.inr (.inr (.inl ⟨.inl rfl, _, rfl⟩))))))
  | calib =>
    rw [exec_calib] at e
    exact .inr (.inr (.inr (.inr (.inr (.inl ⟨rfl, (Host.Outcome.next.inj e).symm⟩)))))
  | getmax =>
    rw [exec_getmax] at e; cases e
    exact .inr (.inr (.inr (.inr (.inr (.inr (.inr (.inr ⟨.inl rfl, _, rfl⟩)))))))
  | getmin =>
    rw [exec_getmin] at e; cases e
    exact .inr (.inr (.inr (.inr (.inr (.inr (.inr (.inr ⟨.inr rfl, _, rfl⟩)))))))
  | rdcal =>
    rw [exec_rdcal] at e; cases e
    exact .inr (.inr (.inr (.inr (.inr (.inr (.inl ⟨.inr (.inl rfl), _, rfl⟩))))))
  | rdpos =>
    rw [exec_rdpos] at e; cases e; split
    · next h => exact .inr (.inr (.inr (.inr (.inr (.inr (.inr (.inl ⟨rfl, h, _, rfl⟩)))))))
    · exact .inr (.inr (.inr (.inr (.inr (.inr (.inl ⟨.inr (.inr rfl), _, rfl⟩))))))

/-- Every command but GETMAX and GETMIN is its own work after `EnsureInit` (40_pwm_controller R100). -/
theorem exec_withInit {i : Instr} (h1 : i ≠ .getmax) (h2 : i ≠ .getmin) : ∃ rest, ∀ s, exec i s = withInit rest s := by
  cases i
  case getmax => contradiction
  case getmin => contradiction
  case init => exact ⟨_, fun s => show execInit s = _ from rfl⟩
  case setch ch on off => exact ⟨_, fun s => show execSetch ch on off s = _ from rfl⟩
  case srvang ch deg => exact ⟨_, fun s => show execSrvang ch deg s = _ from rfl⟩
  case srvpls ch us => exact ⟨_, fun s => show execSrvpls ch us s = _ from rfl⟩
  case setled id level => exact ⟨_, fun s => show execSetled id level s = _ from rfl⟩
  case runmot id speed => exact ⟨_, fun s => show execRunmot id speed s = _ from rfl⟩
  case drive dir speed => exact ⟨_, fun s => show execDrive dir speed s = _ from rfl⟩
  case drivefor dir speed seconds => exact ⟨_, fun s => show execDrivefor dir speed seconds s = _ from rfl⟩
  case stopmot which => exact ⟨_, fun s => show execStopmot which s = _ from rfl⟩
  case rdraw => exact ⟨_, fun s => show execRdraw s = _ from rfl⟩
  case calib => exact ⟨_, fun s => show execCalib s = _ from rfl⟩
  case rdcal => exact ⟨_, fun s => show execRdcal s = _ from rfl⟩
  case rdpos => exact ⟨_, fun s => show execRdpos s = _ from rfl⟩

/-- Every command completes from every state (60_exceptions R185). -/
theorem exec_completes (i : Instr) (s : State) : ∃ t, exec i s = .next t := by
  cases i with
  | init => exact ⟨_, exec_init s⟩
  | setch ch on off => exact ⟨_, exec_setch ..⟩
  | srvang ch deg => exact ⟨_, exec_srvang ..⟩
  | srvpls ch us => exact ⟨_, exec_srvpls ..⟩
  | setled id level => exact ⟨_, exec_setled ..⟩
  | runmot id speed => exact ⟨_, exec_runmot ..⟩
  | drive dir speed => exact ⟨_, rfl⟩
  | drivefor dir speed seconds => exact ⟨_, rfl⟩
  | stopmot which => exact ⟨_, rfl⟩
  | rdraw => exact ⟨_, exec_rdraw s⟩
  | calib => exact ⟨_, exec_calib s⟩
  | getmax => exact ⟨_, exec_getmax s⟩
  | getmin => exact ⟨_, exec_getmin s⟩
  | rdcal => exact ⟨_, exec_rdcal s⟩
  | rdpos => exact ⟨_, exec_rdpos s⟩

end Sys2Proof.Machine
end

