-- ==== Sys2Proof/Laws/Frames.lean ====
section
/-! SUPPORT. From the closed forms of the commands to the terms claims are made in: traces, motors, what a read leaves. -/

namespace Sys2Proof.Machine

/-- A trace that has grown at its new end by `es` reversed has emitted `es`. -/
theorem emits_of_trace {es : List Event} {s t : State} (h : t.trace = es.reverse ++ s.trace) : Emits es s t := by
  simp [Emits, State.events, h]

/-- Claims about a motor depend on the channels and the parameters alone. -/
theorem motorRuns_congr {m : Motor} {v : Int} {s t : State} (h : MotorRuns m v s) (hb : t.chs = s.chs)
    (hc : t.cfg = s.cfg) : MotorRuns m v t := by
  have e := ch_congr hb
  exact ⟨by rw [hc, e]; exact h.fwd, by rw [hc, e]; exact h.rev, by rw [hc, e]; exact h.mag⟩

/-- Everything a command leaves whose own work is one channel write: the pair, its event, the rest as `afterInit` has it. -/
theorem chWrite_leaves {ch : Nat} (h : ch ≤ 15) (on off : Tick) (s : State) :
    (respondOk (chWrite ch on off s.afterInit)).ch ch = some ⟨on, off⟩ ∧
    Emits [channelEvent s.cfg ch on off] s.afterInit (respondOk (chWrite ch on off s.afterInit)) ∧
    SameRegisters s.afterInit (respondOk (chWrite ch on off s.afterInit)) ∧
    SameChannelsExcept [ch] s.afterInit (respondOk (chWrite ch on off s.afterInit)) := by
  refine ⟨?_, emits_of_trace ?_, by constructor <;> simp, fun i hi => ?_⟩
  · rw [ch_congr (respondOk_chs _), chWrite_ch h, if_pos rfl]
  · rw [respondOk_trace, chWrite_trace h, afterInit_cfg]; rfl
  · rw [ch_congr (respondOk_chs _)]
    exact chWrite_ch_other _ _ _ _ (by simpa using hi)

/-- Everything a command leaves whose own work is `Run(m, speed)`. -/
theorem run_leaves (m : Motor) (speed : Int) (s : State) :
    (s.cfg.wf = true → MotorRuns m speed (respondOk (run m speed s.afterInit))) ∧
    Emits (runEvents s.cfg m speed) s.afterInit (respondOk (run m speed s.afterInit)) ∧
    SameRegisters s.afterInit (respondOk (run m speed s.afterInit)) ∧
    SameChannelsExcept (writtenByMotor s.cfg m) s.afterInit (respondOk (run m speed s.afterInit)) := by
  refine ⟨fun hc => motorRuns_congr (run_motorRuns (s := s.afterInit) (by simpa using hc) m speed) rfl rfl, emits_of_trace ?_,
    by constructor <;> simp, fun i hi => ?_⟩
  · rw [respondOk_trace, run_trace, afterInit_cfg]
  · rw [ch_congr (respondOk_chs _)]
    exact run_ch_other _ _ _ (by simpa using hi)

/-- A command whose last bus action is its read emits the read's events after any initialisation. -/
theorem emits_read {s t : State} (h : t.trace = (readSensors s.afterInit).2.trace) :
    Emits (readEvents s 0) s.afterInit t := by
  apply emits_of_trace
  rw [h, readSensors_trace, readEvents_drop (m := 0) (afterInit_din s) (afterInit_dinCount s) (afterInit_cfg s)]

/-- What a read leaves is left after the response too. -/
theorem readLeaves_respond (s : State) (r : Five Half) : ReadLeaves s (respond .ok r (readSensors s).2) :=
  { readSensors_leaves s with }

/-- `ReadLeaves` says nothing of LAST_POS. -/
theorem readLeaves_setLastPos (s : State) (r : Five Half) (p : Int) :
    ReadLeaves s (respond .ok r (setLastPos p (readSensors s).2)) :=
  { readSensors_leaves s with }

/-! ### What a calibration keeps -/

theorem calibrate_keeps {γ : Type} (g : State → γ) (h : ∀ t k, g (calIteration t k) = g t)
    (hd : ∀ t, g (driveBoth .stop 0 t) = g t) (s : State) : g (calibrate s) = g (resetRanges s) := by
  rw [calibrate_eq, hd, sweep_keeps g h]

section fields
variable (s : State)
@[simp] theorem calibrate_inited : (calibrate s).inited = s.inited :=
  (calibrate_keeps State.inited (by simp) (by simp) s).trans rfl
@[simp] theorem calibrate_mode : (calibrate s).mode = s.mode :=
  (calibrate_keeps State.mode (by simp) (by simp) s).trans rfl
@[simp] theorem calibrate_prescale : (calibrate s).prescale = s.prescale :=
  (calibrate_keeps State.prescale (by simp) (by simp) s).trans rfl
@[simp] theorem calibrate_lastPos : (calibrate s).lastPos = s.lastPos :=
  (calibrate_keeps State.lastPos (by simp) (by simp) s).trans rfl
@[simp] theorem calibrate_cmds : (calibrate s).cmds = s.cmds :=
  (calibrate_keeps State.cmds (by simp) (by simp) s).trans rfl
@[simp] theorem calibrate_rst : (calibrate s).rst = s.rst :=
  (calibrate_keeps State.rst (by simp) (by simp) s).trans rfl
@[simp] theorem calibrate_resetCount : (calibrate s).resetCount = s.resetCount :=
  (calibrate_keeps State.resetCount (by simp) (by simp) s).trans rfl
@[simp] theorem calibrate_rsp : (calibrate s).rsp = s.rsp :=
  (calibrate_keeps State.rsp (by simp) (by simp) s).trans rfl
@[simp] theorem calibrate_cfg : (calibrate s).cfg = s.cfg :=
  (calibrate_keeps State.cfg (by simp) (by simp) s).trans rfl
@[simp] theorem calibrate_clkO : (calibrate s).clkO = false := by
  rw [calibrate_eq, driveBoth_clkO, sweep_succ, calIteration_clkO]
@[simp] theorem calibrate_addrO : (calibrate s).addrO = true := by
  rw [calibrate_eq, driveBoth_addrO, sweep_succ, calIteration_addrO]
@[simp] theorem calibrate_din : (calibrate s).din = s.din.drop 30000 := by rw [calibrate_eq, driveBoth_din, sweep_din]
@[simp] theorem calibrate_dinCount : (calibrate s).dinCount = s.dinCount + 30000 := by
  rw [calibrate_eq, driveBoth_dinCount, sweep_dinCount]
end fields

/-- The events of a calibration (43_calibrator R150). -/
theorem calibrate_trace (s : State) : (calibrate s).trace = (calEvents s).reverse ++ s.trace := by
  have hc : (sweep s 100).cfg = s.cfg := by rw [sweep_keeps State.cfg (by simp)]; rfl
  rw [calibrate_eq, driveBoth_trace, sweep_trace, hc]
  simp [calEvents, driveSpeeds]

theorem calEvents_length (s : State) : (calEvents s).length = 164206 := by
  simp only [calEvents, List.length_append, List.length_flatMap, calIterationEvents_length]
  rfl

theorem calEvents_afterInit (s : State) : calEvents s.afterInit = calEvents s := by
  have h : ∀ n, readEvents s.afterInit n = readEvents s n := fun n => by
    rw [readEvents_drop (m := 0) (afterInit_din s) (afterInit_dinCount s) (afterInit_cfg s), Nat.zero_add]
  have : ∀ k, calIterationEvents s.afterInit k = calIterationEvents s k := fun k => by
    simp only [calIterationEvents, h, afterInit_cfg]
  simp only [calEvents, afterInit_cfg, funext this]

theorem calReading_afterInit (s : State) (k j : Nat) (i : Fin 5) : calReading s.afterInit k j i = calReading s k j i := by
  simp only [calReading, rawValue]
  rw [sampleValue_drop (m := 0) (afterInit_din s) (afterInit_dinCount s), Nat.zero_add]

theorem running_afterInit (s : State) (i : Fin 5) (n : Nat) :
    runningMax s.afterInit i n = runningMax s i n ∧ runningMin s.afterInit i n = runningMin s i n := by
  have hm : ∀ k, itMinOf s.afterInit i k = itMinOf s i k := fun k => by simp only [itMinOf, calReading_afterInit]
  have hM : ∀ k, itMaxOf s.afterInit i k = itMaxOf s i k := fun k => by simp only [itMaxOf, calReading_afterInit]
  induction n with
  | zero => exact ⟨rfl, rfl⟩
  | succ n ih => constructor <;> simp only [runningMax, runningMin, ih.1, ih.2, hm, hM]

/-- The ranges CALIB leaves (43_calibrator R154). -/
theorem calibrate_ranges (s : State) (i : Fin 5) :
    ((calibrate s.afterInit).calMax.get i).toNat = runningMax s i 100 ∧
    ((calibrate s.afterInit).calMin.get i).toNat = runningMin s i 100 := by
  have h := sweep_ranges s.afterInit 100 i
  rw [(running_afterInit s i 100).1, (running_afterInit s i 100).2] at h
  rwa [calibrate_eq, driveBoth_calMax, driveBoth_calMin]

/-! ### What every command keeps -/

/-- No command changes the parameters (60_exceptions R199). -/
theorem exec_cfg {i : Instr} {s t : State} (e : exec i s = .next t) : t.cfg = s.cfg := by
  obtain ⟨_, rfl⟩ | ⟨_, _, _, rfl⟩ | ⟨_, _, rfl⟩ | ⟨_, _, rfl⟩ | ⟨d, v, ms, rfl⟩ | ⟨_, rfl⟩ | ⟨_, _, rfl⟩ | ⟨_, _, _, rfl⟩ |
    ⟨_, _, rfl⟩ := exec_cases e
  case inr.inr.inr.inr.inr.inl => rw [respondOk_cfg, calibrate_cfg, afterInit_cfg]
  all_goals simp

/-- No command clears INITED (10_state R22). -/
theorem exec_inited {i : Instr} {s t : State} (h : s.inited = true) (e : exec i s = .next t) : t.inited = true := by
  obtain ⟨_, rfl⟩ | ⟨_, _, _, rfl⟩ | ⟨_, _, rfl⟩ | ⟨_, _, rfl⟩ | ⟨d, v, ms, rfl⟩ | ⟨_, rfl⟩ | ⟨_, _, rfl⟩ | ⟨_, _, _, rfl⟩ |
    ⟨_, _, rfl⟩ := exec_cases e
  case inr.inr.inr.inr.inr.inl => rw [respondOk_inited, calibrate_inited, afterInit_inited]
  all_goals simp [h]

/-- A command's events come after those of the initialisation it begins with, GETMAX and GETMIN produce none. -/
theorem exec_trace {i : Instr} {s t : State} (e : exec i s = .next t) :
    ((i = .getmax ∨ i = .getmin) ∧ t.trace = s.trace) ∨ ∃ es, t.trace = es ++ s.afterInit.trace := by
  have grows : ∀ (c : Nat) (on off : Tick) (u : State), ∃ es, (chWrite c on off u).trace = es ++ u.trace := fun c on off u => by
    by_cases h : 15 < c
    · exact ⟨[], by rw [chWrite_out h]; rfl⟩
    · exact ⟨[_], chWrite_trace (ch := c) (by omega) on off u⟩
  obtain ⟨_, rfl⟩ | ⟨_, _, _, rfl⟩ | ⟨_, _, rfl⟩ | ⟨_, _, rfl⟩ | ⟨d, v, ms, rfl⟩ | ⟨_, rfl⟩ | ⟨_, _, rfl⟩ | ⟨_, _, _, rfl⟩ |
    ⟨_, _, rfl⟩ := exec_cases e
  case inr.inr.inr.inr.inr.inr.inr.inr => exact .inl ⟨‹_›, rfl⟩
  all_goals refine .inr ?_
  · exact ⟨[], rfl⟩
  · exact grows ..
  · exact ⟨_, run_trace ..⟩
  · exact ⟨_, driveBoth_trace ..⟩
  · rw [respondOk_trace, driveBoth_trace, waitMs_trace, driveBoth_trace]
    exact ⟨_, by rw [← List.cons_append, ← List.append_assoc]⟩
  · rw [respondOk_trace]; exact ⟨_, calibrate_trace _⟩
  · rw [respond_trace]; exact ⟨_, readSensors_trace _⟩
  · rw [respond_trace, setLastPos_trace]; exact ⟨_, readSensors_trace _⟩

end Sys2Proof.Machine
end

