-- ==== Sys2Proof/Laws/Invariant.lean ====
section
/-! SUPPORT. What no command changes once the block is initialised, and the registers the invariant speaks of. -/

namespace Sys2Proof.Machine

/-- Anything that channel writes, reads, iterations of the sweep, stores of LAST_POS, waits and responses all keep, a command's
own work keeps; GETMAX and GETMIN have no initialisation before it (10_state R40). -/
theorem exec_keeps {γ : Type} (g : State → γ) (hch : ∀ ch on off u, g (chWrite ch on off u) = g u)
    (hrd : ∀ u, g (readSensors u).2 = g u) (hcal : ∀ u, g (calibrate u) = g u) (hpos : ∀ p u, g (setLastPos p u) = g u)
    (hwait : ∀ ms u, g (waitMs ms u) = g u) (hrsp : ∀ st r u, g (respond st r u) = g u) {i : Instr} {s t : State}
    (e : exec i s = .next t) : g t = if i = .getmax ∨ i = .getmin then g s else g s.afterInit := by
  have hrun : ∀ m v u, g (run m v u) = g u := fun m v u => by simp only [run, setValue_eq, hch]
  have hdrive : ∀ d v u, g (driveBoth d v u) = g u := fun d v u => by simp only [driveBoth, hrun]
  have hok : ∀ u, g (respondOk u) = g u := fun u => hrsp _ _ u
  by_cases hi : i = .getmax ∨ i = .getmin
  · rw [if_pos hi]
    rcases hi with rfl | rfl
    · rw [← Host.Outcome.next.inj ((exec_getmax s).symm.trans e), hrsp]
    · rw [← Host.Outcome.next.inj ((exec_getmin s).symm.trans e), hrsp]
  · rw [if_neg hi]
    obtain ⟨_, rfl⟩ | ⟨_, _, _, rfl⟩ | ⟨_, _, rfl⟩ | ⟨_, _, rfl⟩ | ⟨d, v, ms, rfl⟩ | ⟨_, rfl⟩ | ⟨_, _, rfl⟩ |
      ⟨_, _, _, rfl⟩ | ⟨h, _⟩ := exec_cases e
    case inr.inr.inr.inr.inr.inr.inr.inr => exact absurd h hi
    all_goals simp only [hrsp, hok, hch, hrun, hdrive, hwait, hcal, hrd, hpos]

/-- MODE and PRESCALE are written by the initialisation alone (40_pwm_controller R101). -/
theorem exec_mode {i : Instr} {s t : State} (e : exec i s = .next t) :
    t.mode = if i = .getmax ∨ i = .getmin then s.mode else s.afterInit.mode :=
  exec_keeps State.mode (by simp) (by simp) (by simp) (by simp) (by simp) (by simp) e

theorem exec_prescale {i : Instr} {s t : State} (e : exec i s = .next t) :
    t.prescale = if i = .getmax ∨ i = .getmin then s.prescale else s.afterInit.prescale :=
  exec_keeps State.prescale (by simp) (by simp) (by simp) (by simp) (by simp) (by simp) e

/-- GETMAX and GETMIN leave INITED as it is; every other command sets it (40_pwm_controller R100). -/
theorem exec_inited_eq {i : Instr} {s t : State} (e : exec i s = .next t) :
    t.inited = if i = .getmax ∨ i = .getmin then s.inited else true :=
  (exec_keeps State.inited (by simp) (by simp) (by simp) (by simp) (by simp) (by simp) e).trans (by simp)

theorem exec_resetCount {i : Instr} {s t : State} (e : exec i s = .next t) : t.resetCount = s.resetCount :=
  (exec_keeps State.resetCount (by simp) (by simp) (by simp) (by simp) (by simp) (by simp) e).trans (by simp)

/-- Executing a command takes no word from the host. -/
theorem exec_cmds {i : Instr} {s t : State} (e : exec i s = .next t) : t.cmds = s.cmds :=
  (exec_keeps State.cmds (by simp) (by simp) (by simp) (by simp) (by simp) (by simp) e).trans (by simp)

/-- Every command ends with a response (10_state R33). -/
theorem exec_rsp {i : Instr} {s t : State} (e : exec i s = .next t) : ∃ r, t.rsp = some r := by
  obtain ⟨_, rfl⟩ | ⟨_, _, _, rfl⟩ | ⟨_, _, rfl⟩ | ⟨_, _, rfl⟩ | ⟨d, v, ms, rfl⟩ | ⟨_, rfl⟩ | ⟨_, _, rfl⟩ | ⟨_, _, _, rfl⟩ |
    ⟨_, _, rfl⟩ := exec_cases e
  all_goals exact ⟨_, rfl⟩

/-- The initialisation leaves MODE and PRESCALE at the values of 40_pwm_controller R101 for good. -/
theorem afterInit_values {s : State} (hm : s.inited = true → s.mode = initialisedMode s.cfg)
    (hp : s.inited = true → s.prescale = 11) :
    s.afterInit.mode = initialisedMode s.cfg ∧ s.afterInit.prescale = 11 := by
  cases h : s.inited
  · exact ⟨afterInit_mode h, afterInit_prescale h⟩
  · rw [afterInit_of_inited h]
    exact ⟨hm h, hp h⟩

end Sys2Proof.Machine
end

