-- ==== Sys2Proof/Laws/PerInstr.lean ====
section
/-! SUPPORT. Per instruction: decoding the word of a well-formed command gives the command back (30_encoding R70 to R73,
R77). -/

namespace Sys2Proof.Laws.RoundTrip

open Sys2Proof

/-- The word of `i` decodes to `i`. -/
def Statement (i : Instr) : Prop := i.wellFormed = true → decode (encode i) = .ok i

theorem init : Statement .init := fun _ => by decide

theorem setch (ch : Byte) (on off : Tick) : Statement (.setch ch on off) := fun _ => by
  simp [encode, decode, reservedT]

theorem srvang (ch : Byte) (deg : Half) : Statement (.srvang ch deg) := fun _ => by
  simp [encode, decode, reservedAB]

theorem srvpls (ch : Byte) (us : Half) : Statement (.srvpls ch us) := fun _ => by
  simp [encode, decode, reservedAB]

theorem setled (id : Byte) (level : Half) : Statement (.setled id level) := fun _ => by
  simp [encode, decode, reservedAB]

theorem runmot (id : Byte) (speed : Half) : Statement (.runmot id speed) := fun _ => by
  simp [encode, decode, reservedAB]

theorem drive (dir : Coded Dir) (speed : Half) : Statement (.drive dir speed) := fun h => by
  simp [encode, decode, reservedAB, dirOfCode_dirCode h]

theorem drivefor (dir : Coded Dir) (speed seconds : Half) : Statement (.drivefor dir speed seconds) := fun h => by
  simp [encode, decode, dirOfCode_dirCode h]

theorem stopmot (which : Coded Which) : Statement (.stopmot which) := fun h => by
  simp [encode, decode, reservedA, whichOfCode_whichCode h]

theorem rdraw : Statement .rdraw := fun _ => by decide

theorem calib : Statement .calib := fun _ => by decide

theorem getmax : Statement .getmax := fun _ => by decide

theorem getmin : Statement .getmin := fun _ => by decide

theorem rdcal : Statement .rdcal := fun _ => by decide

theorem rdpos : Statement .rdpos := fun _ => by decide

end Sys2Proof.Laws.RoundTrip
end

