-- ==== Sys2Proof/Laws/Step.lean ====
section
/-! SUPPORT. Everything a step can be, said once; later proofs cite these and never unfold `step`. -/

namespace Sys2Proof.Machine

/-- A word taken from the host is answered ILLEGAL or executed. -/
theorem runWord_cases {w : Command} {s t : State} (h : runWord w s = .next t) :
    (∃ e, decode w = .error e ∧ t = respondIllegal s) ∨ ∃ i, decode w = .ok i ∧ exec i s = .next t := by
  unfold runWord at h
  split at h
  · next i e => exact .inr ⟨i, e, h⟩
  · next x e => exact .inl ⟨x, e, (Host.Outcome.next.inj h).symm⟩

theorem runWord_ok {w : Command} {i : Instr} (h : decode w = .ok i) (s : State) : runWord w s = exec i s := by
  simp only [runWord, h]

theorem runWord_error {w : Command} {e : DecodeError} (h : decode w = .error e) (s : State) :
    runWord w s = .next (respondIllegal s) := by
  simp only [runWord, h]

theorem runWord_completes (w : Command) (s : State) : ∃ t, runWord w s = .next t := by
  cases h : decode w with
  | ok i => rw [runWord_ok h]; exact exec_completes i s
  | error e => exact ⟨_, runWord_error h s⟩

theorem step_idle {s : State} (h : s.rst = .idle) : step s = .next (resetFrom s) := by simp only [step, h]

theorem step_low_nil {s : State} (h : s.rst = .low) (hc : s.cmds = []) : step s = .next (idleCycle s) := by
  simp only [step, h, hc]

theorem step_low_cons {s : State} {w : Command} {rest : List Command} (h : s.rst = .low) (hc : s.cmds = w :: rest) :
    step s = runWord w (accepted rest s) := by
  simp only [step, h, hc]

theorem step_during_nil {s : State} {n : Nat} (h : s.rst = .during n) (hc : s.cmds = []) :
    step s = .next (resetFrom s) := by
  simp only [step, h, resetDuring, hc]

theorem step_during_cons {s : State} {n : Nat} {w : Command} {rest : List Command} (h : s.rst = .during n)
    (hc : s.cmds = w :: rest) {u : State} (hu : runWord w (accepted rest { s with rst := .low }) = .next u) :
    step s = .next (abandonAt n (accepted rest s) u) := by
  simp only [step, h, resetDuring, hc]
  simp only [accepted] at hu ⊢
  simp only [hu]

/-- The five things a step can be: a reset with no command under way, a reset in the life of a command, an idle cycle, a
command. -/
theorem step_cases {s t : State} (h : step s = .next t) :
    ((s.rst = .idle ∨ ∃ n, s.rst = .during n ∧ s.cmds = []) ∧ t = resetFrom s) ∨
    (∃ n w rest u, s.rst = .during n ∧ s.cmds = w :: rest ∧ runWord w (accepted rest { s with rst := .low }) = .next u ∧
      t = abandonAt n (accepted rest s) u) ∨
    (s.rst = .low ∧ s.cmds = [] ∧ t = idleCycle s) ∨
    (∃ w rest, s.rst = .low ∧ s.cmds = w :: rest ∧ runWord w (accepted rest s) = .next t) := by
  cases hr : s.rst with
  | idle =>
    rw [step_idle hr] at h
    exact .inl ⟨.inl rfl, (Host.Outcome.next.inj h).symm⟩
  | low =>
    cases hc : s.cmds with
    | nil =>
      rw [step_low_nil hr hc] at h
      exact .inr (.inr (.inl ⟨rfl, rfl, (Host.Outcome.next.inj h).symm⟩))
    | cons w rest =>
      rw [step_low_cons hr hc] at h
      exact .inr (.inr (.inr ⟨w, rest, rfl, rfl, h⟩))
  | during n =>
    cases hc : s.cmds with
    | nil =>
      rw [step_during_nil hr hc] at h
      exact .inl ⟨.inr ⟨n, rfl, rfl⟩, (Host.Outcome.next.inj h).symm⟩
    | cons w rest =>
      obtain ⟨u, hu⟩ := runWord_completes w (accepted rest { s with rst := .low })
      rw [step_during_cons hr hc hu] at h
      exact .inr (.inl ⟨n, w, rest, u, rfl, rfl, hu, (Host.Outcome.next.inj h).symm⟩)

/-- What a word taken from the host adds to the trace, and the parameters it leaves. -/
theorem runWord_trace {w : Command} {s t : State} (h : runWord w s = .next t) : ∃ es, t.trace = es ++ s.trace := by
  rcases runWord_cases h with ⟨_, _, rfl⟩ | ⟨i, _, e⟩
  · exact ⟨[], rfl⟩
  · rcases exec_trace e with ⟨_, h⟩ | ⟨es, h⟩
    · exact ⟨[], h⟩
    · cases hi : s.inited
      · rw [afterInit_trace hi, ← List.append_assoc] at h
        exact ⟨_, h⟩
      · rw [afterInit_of_inited hi] at h
        exact ⟨es, h⟩

/-- A reset after `n` of the events `es`: those events, the samples they spent, and the state of R37. -/
theorem abandonAt_eq {s t : State} {es : List Event} (h : t.trace = es.reverse ++ s.trace) (n : Nat) :
    abandonAt n s t = resetFrom { s with
      din := s.din.drop ((es.take n).countP isSample), dinCount := s.dinCount + (es.take n).countP isSample,
      trace := (es.take n).reverse ++ s.trace } := by
  have hl : t.trace.length - s.trace.length = es.reverse.length := by rw [h, List.length_append]; omega
  have hm : (t.trace.take es.reverse.length).drop (es.reverse.length - n) = (es.take n).reverse := by
    rw [h, List.take_left, List.reverse_take, List.length_reverse]
  simp only [abandonAt, hl, hm, List.countP_reverse]

end Sys2Proof.Machine
end

