-- ==== Sys2Proof/Tests/Slice0.lean ====
section
/-! SUPPORT. The model's own tests, their expected results from spec/95_test_vectors (the table is named at each group) or
from the rule named, and for each statement a witness that meets its hypotheses. -/

namespace Sys2Proof.Tests

open Sys2Proof Sys2Proof.Machine

/-! ### Helpers -/

/-- A block with INITED 1 and REFCFG, its channels as reset left them. -/
def ready : State := { State.reset with inited := true }

/-- The state after one command word. -/
def after (w : Nat) (s : State) : Option State :=
  match step (s.withFetchWord 48 w) with
  | .next t => some t
  | .fault f => nomatch f
  | .refused _ => none

/-- The events of one command word issued from `s`. -/
def eventsOf (w : Nat) (s : State) : Option (List Event) := (after w s).map fun t => t.events.drop s.events.length

/-- The response to one command word. -/
def replyOf (w : Nat) (s : State) : Option Response := (after w s).bind fun t => t.rsp

/-- Ten bits, the first sample first. -/
def tenBits (n : Nat) : List Bool := (List.range 10).map fun k => n.testBit (9 - k)

/-- The sixty bits of a read: cycle 0 presents `p`, cycles 1 to 5 present the five values (42_line_sensor R141). -/
def frame (p v0 v1 v2 v3 v4 : Nat) : List Bool :=
  tenBits p ++ tenBits v0 ++ tenBits v1 ++ tenBits v2 ++ tenBits v3 ++ tenBits v4

/-- `ready` with a data line. -/
def reading (bits : List Bool) : State := { ready with din := bits }

/-! ### Well-formed terms -/

theorem test_wf_named_dir : (Instr.drive (.named .stop) 0).wellFormed = true := by decide
theorem test_ill_formed_drive : (Instr.drive (.outside 4) 30).wellFormed = false := by decide
theorem test_wf_outside_drive : (Instr.drive (.outside 5) 30).wellFormed = true := by decide
theorem test_ill_formed_drivefor : (Instr.drivefor (.outside 0) 50 2).wellFormed = false := by decide
theorem test_ill_formed_stopmot_low : (Instr.stopmot (.outside 1)).wellFormed = false := by decide
theorem test_ill_formed_stopmot_high : (Instr.stopmot (.outside 3)).wellFormed = false := by decide
theorem test_wf_outside_stopmot : (Instr.stopmot (.outside 0)).wellFormed = true ∧
    (Instr.stopmot (.outside 4)).wellFormed = true := by decide

/-! ### Decoding: the words of tables V-ENC, V-SETCH, V-SERVO, V-LED, V-RUN and V-DRIVE, field by field (op 8, a 8, b 16,
c 16 bits) -/

theorem test_decode_init : decode (0x01#8 ++ 0x00#8 ++ 0x0000#16 ++ 0x0000#16) = .ok .init := by decide
theorem test_decode_setch : decode (0x02#8 ++ 0x03#8 ++ 0x0FFF#16 ++ 0x0001#16) = .ok (.setch 3 4095 1) := by decide
theorem test_decode_srvang : decode (0x03#8 ++ 0x0F#8 ++ 0x00B4#16 ++ 0x0000#16) = .ok (.srvang 15 180) := by decide
theorem test_decode_srvpls : decode (0x04#8 ++ 0x08#8 ++ 0x09C4#16 ++ 0x0000#16) = .ok (.srvpls 8 2500) := by decide
theorem test_decode_setled : decode (0x05#8 ++ 0x05#8 ++ 0x8000#16 ++ 0x0000#16) = .ok (.setled 5 (-32768)) := by decide
theorem test_decode_runmot : decode (0x06#8 ++ 0x02#8 ++ 0xFF9C#16 ++ 0x0000#16) = .ok (.runmot 2 (-100)) := by decide
theorem test_decode_drive : decode (0x07#8 ++ 0x02#8 ++ 0x0032#16 ++ 0x0000#16) = .ok (.drive (.named .left) 50) := by decide
theorem test_decode_drive_outside : decode (0x07#8 ++ 0x05#8 ++ 0x001E#16 ++ 0x0000#16) = .ok (.drive (.outside 5) 30) := by
  decide
theorem test_decode_drivefor :
    decode (0x08#8 ++ 0x01#8 ++ 0x0028#16 ++ 0x0003#16) = .ok (.drivefor (.named .back) 40 3) := by decide
theorem test_decode_stopmot : decode (0x09#8 ++ 0x02#8 ++ 0x0000#16 ++ 0x0000#16) = .ok (.stopmot (.named .m2)) := by decide
theorem test_decode_sensors : decode 0x0A0000000000 = .ok .rdraw ∧ decode 0x0B0000000000 = .ok .calib ∧
    decode 0x0C0000000000 = .ok .getmax ∧ decode 0x0D0000000000 = .ok .getmin ∧ decode 0x0E0000000000 = .ok .rdcal ∧
    decode 0x0F0000000000 = .ok .rdpos := by decide
theorem test_decode_undefined : decode 0x000000000000 = .error .undefinedOpcode ∧
    decode 0x100000000000 = .error .undefinedOpcode ∧ decode 0xFF0000000000 = .error .undefinedOpcode := by decide
theorem test_decode_reserved : decode 0x010100000000 = .error .reservedField ∧
    decode 0x0A0000000001 = .error .reservedField ∧ decode 0x090100010000 = .error .reservedField ∧
    decode 0x0300005A0001 = .error .reservedField ∧ decode 0x020310000000 = .error .reservedField ∧
    decode 0x020300001000 = .error .reservedField := by decide
theorem test_table_word : decodeTableWord 48 0x0601FFCE0000 = some (.runmot 1 (-50)) ∧
    decodeTableWord 48 0x100000000000 = none := by decide

/-! ### INIT (V-INIT) and illegal words -/

theorem test_init_events : (eventsOf 0x010000000000 State.reset).map (fun es => (es.take 8, es.length)) =
    some ([.bw1 0x00 0x00, .br1 0x00 0x00, .bw1 0x00 0x10, .bw1 0xFE 0x0B, .bw1 0x00 0x00, .wait 5000, .bw1 0x00 0xA0,
      .bw4 0x2E 0x00 0x00 0xFF 0x0F], 23) := by decide
theorem test_init_state : (after 0x010000000000 State.reset).map (fun t => (t.mode, t.prescale, t.ch 10, t.ch 15)) =
    some (0xA0, 11, some ⟨0, 4095⟩, some ⟨0, 0⟩) := by decide
theorem test_illegal_word : (after 0x0A0000000001 State.reset).map (fun t => (t.rsp, t.trace, t.inited)) =
    some (some ⟨.illegal, ⟨0, 0, 0, 0, 0⟩⟩, [], false) := by decide

/-! ### SETCH (V-SETCH; the window of 40_pwm_controller R96) -/

theorem test_setch : eventsOf 0x02030FFF0001 ready = some [.bw4 0x12 0xFF 0x0F 0x01 0x00] := by decide
theorem test_setch_ignored : replyOf 0x021000000001 State.reset = some ⟨.ignored, ⟨0, 0, 0, 0, 0⟩⟩ := by decide
theorem test_window_wraps : Channel.asserted ⟨4095, 1⟩ 4095 = true ∧ Channel.asserted ⟨4095, 1⟩ 0 = true ∧
    Channel.asserted ⟨4095, 1⟩ 1 = false ∧ Channel.asserted ⟨291, 291⟩ 291 = false := by decide

/-! ### The address map (20_memory R51, R58) -/

theorem test_bus_bytes : (after 0x02030FFF0801 ready).map
    (fun t => [t.busByte 0x12, t.busByte 0x13, t.busByte 0x14, t.busByte 0x15]) =
    some [some 0xFF, some 0x0F, some 0x01, some 0x08] := by decide
theorem test_bus_unmapped : [0x01, 0x05, 0x46, 0xFD, 0xFF].map (State.busByte State.reset) = [none, none, none, none, none] := by
  decide
theorem test_bus_ends : (State.busByte State.reset 0x06).isSome = true ∧ (State.busByte State.reset 0x45).isSome = true ∧
    (after 0x010000000000 State.reset).map (fun t => (t.busByte 0x00, t.busByte 0xFE)) = some (some 0xA0, some 11) := by decide

/-! ### Servos (V-SERVO) -/

theorem test_srvang_180 : eventsOf 0x030000B40000 ready = some [.bw4 0x06 0x00 0x00 0xEC 0x01] := by decide
theorem test_srvang_181 : replyOf 0x030000B50000 ready = some ⟨.ignored, ⟨0, 0, 0, 0, 0⟩⟩ := by decide
theorem test_srvpls_2500 : eventsOf 0x040809C40000 ready = some [.bw4 0x26 0x00 0x00 0x00 0x02] := by decide
theorem test_srvpls_499 : replyOf 0x040001F30000 ready = some ⟨.ignored, ⟨0, 0, 0, 0, 0⟩⟩ := by decide

/-! ### LEDs (V-LED) -/

theorem test_setled_1024 : eventsOf 0x050504000000 ready = some [.bw4 0x42 0x00 0x00 0xFF 0x0F] := by decide
theorem test_setled_negative : eventsOf 0x0501FFFF0000 ready = some [.bw4 0x32 0x00 0x00 0x00 0x00] := by decide

/-! ### Motors (V-RUN, V-DRIVE) -/

theorem test_runmot_minus_50 : eventsOf 0x0601FFCE0000 ready =
    some [.bw4 0x06 0x00 0x00 0x00 0x00, .bw4 0x0A 0x00 0x00 0xFF 0x0F, .bw4 0x0E 0x00 0x00 0x02 0x08] := by decide
theorem test_runmot_least : (after 0x060280000000 ready).map (fun t => (t.ch 3, t.ch 4, t.ch 5)) =
    some (some ⟨0, 0⟩, some ⟨0, 4095⟩, some ⟨0, 4095⟩) := by decide
theorem test_drive_right : eventsOf 0x070300640000 ready =
    some [.bw4 0x06 0x00 0x00 0xFF 0x0F, .bw4 0x0A 0x00 0x00 0x00 0x00, .bw4 0x0E 0x00 0x00 0xFF 0x0F,
      .bw4 0x12 0x00 0x00 0x00 0x00, .bw4 0x16 0x00 0x00 0xFF 0x0F, .bw4 0x1A 0x00 0x00 0xFF 0x0F] := by decide
theorem test_drive_left_other_polarity :
    (after 0x070200320000 { ready with cfg := { Config.ref with turnRightM1Fwd := false } }).map
      (fun t => (t.ch 0, t.ch 1, t.ch 3, t.ch 4)) =
    some (some ⟨0, 4095⟩, some ⟨0, 0⟩, some ⟨0, 0⟩, some ⟨0, 4095⟩) := by decide
theorem test_drivefor_wait : (eventsOf 0x08000032FFFF ready).map (fun es => (es[6]?, es.length)) =
    some (some (.wait 65535000000), 13) := by decide
theorem test_drivefor_ignored : eventsOf 0x080500320002 ready = some [] := by decide
theorem test_stopmot_m2 : eventsOf 0x090200000000 ready =
    some [.bw4 0x12 0x00 0x00 0xFF 0x0F, .bw4 0x16 0x00 0x00 0x00 0x00, .bw4 0x1A 0x00 0x00 0x00 0x00] := by decide
theorem test_stopmot_ignored : replyOf 0x090400000000 ready = some ⟨.ignored, ⟨0, 0, 0, 0, 0⟩⟩ := by decide

/-! ### The sensor link (V-READ) -/

theorem test_rdraw : replyOf 0x0A0000000000 (reading (frame 1023 513 0 1023 341 682)) =
    some ⟨.ok, ⟨513, 0, 1023, 341, 682⟩⟩ := by decide
theorem test_rdraw_events : (eventsOf 0x0A0000000000 (reading (frame 1023 513 0 1023 341 682))).map
    (fun es => (es.take 3, es.getLast?, es.length)) =
    some ([.bw4 0x2E 0x00 0x00 0x00 0x00, .wait 2000, .pin .addr false], some (.bw4 0x2E 0x00 0x00 0xFF 0x0F), 327) := by
  decide +kernel

/-! ### The calibrator (V-MERGE, rows M1.2 and M4.1; program P3; 43_calibrator R156, R157) -/

theorem test_merge_rejects_a_spike : mergeMax 500 500 = 500 ∧ mergeMin 500 900 = 500 ∧ mergeMax 500 510 = 510 := by decide
theorem test_merge_is_strict : mergeMax 100 104 = 104 ∧ mergeMin 104 104 = 104 := by decide
theorem test_getmax : replyOf 0x0C0000000000 State.reset = some ⟨.ok, ⟨650, 650, 650, 650, 650⟩⟩ := by decide
theorem test_getmin : replyOf 0x0D0000000000 State.reset = some ⟨.ok, ⟨100, 100, 100, 100, 100⟩⟩ := by decide

/-! ### The normalizer and the position (V-NORM, V-POS, program P2) -/

theorem test_norm_equal_bounds : normValue 400 400 1023 = 0 := by decide +kernel
theorem test_norm_crossed_bounds : normValue 600 400 401 = 995 ∧ normValue 600 400 700 = 0 := by decide +kernel
theorem test_rdcal : replyOf 0x0E0000000000 (reading (frame 341 100 650 375 50 1023)) =
    some ⟨.ok, ⟨0, 1000, 500, 0, 1000⟩⟩ := by decide +kernel
theorem test_rdpos : (after 0x0F0000000000 (reading (frame 0 650 650 650 375 100))).map (fun t => (t.rsp, t.lastPos)) =
    some (some ⟨.ok, ⟨3666, 0, 0, 0, 0⟩⟩, 3666) := by decide +kernel
theorem test_rdpos_not_detected :
    (after 0x0F0000000000 { reading (frame 682 650 650 650 650 650) with lastPos := 3666 }).map
      (fun t => (t.rsp, t.lastPos)) = some (some ⟨.ok, ⟨4000, 0, 0, 0, 0⟩⟩, 3666) := by decide +kernel

/-! ### Witnesses: for each statement with hypotheses, data that meets them, one clause at a time and at the ends of ranges -/

theorem witness_DecodeOfEncodeIsIdentity : (Instr.drivefor (.outside 255) (-1) 65535).wellFormed = true ∧
    (Instr.setch 255 4095 4095).wellFormed = true ∧ (Instr.stopmot (.outside 4)).wellFormed = true := by decide

theorem witness_EncodeOfDecodeIsIdentity : decode 0x0805FFFFFFFF = .ok (.drivefor (.outside 5) (-1) 65535) := by decide

theorem witness_DecodeAgreesWithMatchAndMask :
    (∃ r ∈ opcodeTable, r.selects 0x02FF0FFF0FFF = true) ∧ ∀ r ∈ opcodeTable, r.selects 0x100000000000 = false := by decide

theorem witness_IllegalWordHasNoEffect : IllegalWord 0x000000000000 ∧ IllegalWord 0x100000000000 ∧
    IllegalWord 0x010000000001 ∧ IllegalWord 0x0A0100000000 ∧ IllegalWord 0x0F0000010000 ∧ IllegalWord 0x090100010000 ∧
    IllegalWord 0x030000000001 ∧ IllegalWord 0x070000000001 ∧ IllegalWord 0x020010000000 ∧ IllegalWord 0x020000001000 ∧
    ¬ IllegalWord 0x02000FFF0FFF ∧ ¬ IllegalWord 0x08FFFFFFFFFF := by
  refine ⟨?_, ?_, ?_, ?_, ?_, ?_, ?_, ?_, ?_, ?_, ?_, ?_⟩ <;> simp only [IllegalWord] <;> decide

/-- For the statements about a step with a word offered. -/
theorem witness_step : (State.reset.withFetchWord 48 0x0C0000000000).rst = .low ∧
    (State.reset.withFetchWord 48 0x0C0000000000).cmds = [0x0C0000000000] ∧
    decode 0x0C0000000000 = .ok .getmax ∧ Instr.getmax.wellFormed = true := by decide

theorem witness_IllegalWordHasNoEffect_step : (State.reset.withFetchWord 48 0).rst = .low ∧
    (State.reset.withFetchWord 48 0).cmds = [0x000000000000] ∧ IllegalWord 0x000000000000 :=
  ⟨rfl, by decide, witness_IllegalWordHasNoEffect.1⟩

theorem witness_IdleStepKeepsTheState : ready.rst = .low ∧ ready.cmds = [] := by decide

/-- For FirstInitialisationState, InitialisationEvents and the first clause of SelfInitialisingSet. -/
theorem witness_not_initialised : State.reset.cfg.wf = true ∧ State.reset.inited = false ∧
    Instr.rdraw ≠ .getmax ∧ Instr.rdraw ≠ .getmin := by decide

/-- For SecondInitDoesNothing, ModeAndPrescaleStay, FullyOnMissesOneTick, BusShowsTheRegisters and the last clause of
SelfInitialisingSet. -/
theorem witness_initialised : ready.cfg.wf = true ∧ ready.inited = true := by decide

/-- The address clauses of BusShowsTheRegisters, at the ends of the channels' range and on both sides of it. -/
theorem witness_BusShowsTheRegisters : (0x06 : BitVec 8).toNat = ready.cfg.chBase.toNat + ready.cfg.chStride * 0 + 0 ∧
    (0x45 : BitVec 8).toNat = ready.cfg.chBase.toNat + ready.cfg.chStride * 15 + 3 ∧
    (0x05 : BitVec 8) ≠ ready.cfg.modeReg ∧ (0x46 : BitVec 8) ≠ ready.cfg.prescaleReg ∧
    ∀ (i : Fin 16) (k : Fin 4), (0x05 : BitVec 8).toNat ≠ ready.cfg.chBase.toNat + ready.cfg.chStride * i.val + k.val ∧
      (0x46 : BitVec 8).toNat ≠ ready.cfg.chBase.toNat + ready.cfg.chStride * i.val + k.val := by decide

/-- For the statements with a channel operand: 15 is inside, 16 outside. -/
theorem witness_channel : (15 : Byte).toNat ≤ 15 ∧ 15 < (16 : Byte).toNat ∧ State.reset.cfg.wf = true := by decide

theorem witness_DutyWindowCases :
    State.reset.inited = false ∧ ready.inited = true ∧
    (chWrite 3 4095 1 ready).ch 3 = some ⟨4095, 1⟩ ∧ (1 : Tick).toNat < (4095 : Tick).toNat ∧
    (chWrite 3 291 291 ready).ch 3 = some ⟨291, 291⟩ ∧
    (chWrite 3 0 2048 ready).ch 3 = some ⟨0, 2048⟩ ∧ (0 : Tick).toNat < (2048 : Tick).toNat := by decide

theorem witness_SrvangSetsServoTick : (180 : Half).toNat ≤ 180 ∧ (0 : Byte).toNat ≤ 15 ∧ 180 < (181 : Half).toNat := by decide

theorem witness_SrvplsSetsServoTick : 500 ≤ (500 : Half).toNat ∧ (2500 : Half).toNat ≤ 2500 ∧
    (499 : Half).toNat < 500 ∧ 2500 < (2501 : Half).toNat := by decide

/-- The premise of the last clause of SrvplsSetsServoTick. -/
theorem witness_SrvplsSetsServoTick_angle : (180 : Half).toNat ≤ 180 ∧ (2400 : Half).toNat = 10 * (180 : Half).toNat + 600 := by
  decide

theorem witness_ServoTickMonotone : 500 ≤ 500 ∧ 500 ≤ 2500 ∧ 2500 ≤ 2500 := by decide

theorem witness_SetledScalesTheLevel : 1 ≤ (1 : Byte).toNat ∧ (5 : Byte).toNat ≤ 5 ∧ (0 : Byte).toNat < 1 ∧
    5 < (6 : Byte).toNat := by decide

theorem witness_RunmotSetsOneMotor : (1 : Byte).toNat = 1 ∧ (2 : Byte).toNat = 2 ∧
    (0 : Byte).toNat ≠ 1 ∧ (0 : Byte).toNat ≠ 2 ∧ (3 : Byte).toNat ≠ 1 ∧ (3 : Byte).toNat ≠ 2 := by decide

/-- The premise of DriveSetsBothMotors for RIGHT under either polarity. -/
theorem witness_DriveSetsBothMotors :
    (if Config.ref.turnRightM1Fwd = true then (50 : Int) = (50 : Half).toInt ∧ (-50 : Int) = -(50 : Half).toInt
      else (50 : Int) = -(50 : Half).toInt ∧ (-50 : Int) = (50 : Half).toInt) ∧
    (if ({ Config.ref with turnRightM1Fwd := false } : Config).turnRightM1Fwd = true
      then (-50 : Int) = (50 : Half).toInt ∧ (50 : Int) = -(50 : Half).toInt
      else (-50 : Int) = -(50 : Half).toInt ∧ (50 : Int) = (50 : Half).toInt) := by decide

theorem witness_NegatedSpeedMirrorsDirection : (-30 : Half).toInt = -(30 : Half).toInt := by decide

theorem witness_DiscardedBitsDoNotMatter : (tenBits 1023).length = 10 ∧ (tenBits 0).length = 10 ∧
    Instr.rdcal ∈ [Instr.rdraw, Instr.rdcal, Instr.rdpos] := by decide

/-- A data line that presents 0 for a whole calibration. -/
def flat : State := reading (List.replicate 30000 false)

theorem flat_bit {n : Nat} (h : n < 30000) : dinBit flat n = false := by
  simp only [dinBit, flat, reading, List.getElem?_replicate, if_pos h, Option.getD_some]

theorem witness_FlatSensorGivesEqualBounds (i : Fin 5) : ∀ k < 100, ∀ j < 5, calReading flat k j i = 0 := by
  intro k hk j hj
  simp only [calReading, rawValue, sampleValue]
  refine List.sum_eq_zero fun x hx => ?_
  obtain ⟨m, hm, rfl⟩ := List.mem_map.1 hx
  rw [flat_bit (by have := List.mem_range.1 hm; have := i.isLt; omega)]
  simp

/-- For RdposReturnsTheWeightedMean: the third read of program P2 is detected. -/
theorem witness_RdposReturnsTheWeightedMean :
    normalisedRead (reading (frame 0 650 650 650 375 100)) = ⟨1000, 1000, 1000, 500, 0⟩ ∧
    ∃ i : Fin 5, 200 < 1000 - (⟨1000, 1000, 1000, 500, 0⟩ : Five Int).get i := by decide +kernel

/-- For RdposFallsBackToAnExtreme: inverted values 200 at most, on both sides of LAST_POS 2000. -/
theorem witness_RdposFallsBackToAnExtreme :
    normalisedRead (reading (frame 0 540 650 650 650 1023)) = ⟨800, 1000, 1000, 1000, 1000⟩ ∧
    (∀ i : Fin 5, 1000 - (⟨800, 1000, 1000, 1000, 1000⟩ : Five Int).get i ≤ 200) ∧
    (1999 : BitVec 12).toNat < 2000 ∧ ¬ (2000 : BitVec 12).toNat < 2000 := by decide +kernel

/-- For the second clause of PositionIsBounded: sensor 4 alone contributes. -/
theorem witness_PositionIsBounded :
    normalisedRead (reading (frame 0 650 650 650 650 539)) = ⟨1000, 1000, 1000, 1000, 798⟩ ∧
    200 < 1000 - (⟨1000, 1000, 1000, 1000, 798⟩ : Five Int).get 4 ∧
    (∀ j : Fin 5, j ≠ 4 → 1000 - (⟨1000, 1000, 1000, 1000, 798⟩ : Five Int).get j ≤ 50) ∧
    State.reset.lastPos.toNat ≤ 4000 := by decide +kernel

/-- For OnlyRdposWritesLastPos, OnlyCalibWritesRanges and OnlyReadsMoveTheLink. -/
theorem witness_other_command : Instr.init ≠ .rdpos ∧ Instr.init ≠ .calib ∧ Instr.init ≠ .rdraw ∧ Instr.init ≠ .rdcal := by
  decide

/-- For TraceOnlyGrows and ParametersNeverChange. -/
theorem witness_some_step : step ready = .next ready := rfl

/-- For IdleResetRestoresDefaults, both forms of a reset with no command under way. -/
theorem witness_IdleResetRestoresDefaults : ({ ready with rst := .idle } : State).rst = .idle ∧
    ({ ready with rst := .during 3 } : State).rst = .during 3 ∧ ({ ready with rst := .during 3 } : State).cmds = [] := by decide

/-- For UnspecifiedRegistersAreNotRead. -/
theorem witness_UnspecifiedRegistersAreNotRead : State.reset.inited = false ∧ Instr.rdpos ≠ .getmax ∧ Instr.rdpos ≠ .getmin ∧
    (Instr.getmin = .getmax ∨ Instr.getmin = .getmin) := by decide

theorem witness_ResetAbandonsTheCommand :
    ({ ready with rst := .during 0, cmds := [0x0B0000000000] } : State).rst = .during 0 ∧
    ({ ready with rst := .during 0, cmds := [0x0B0000000000] } : State).cmds = 0x0B0000000000 :: [] := by decide

/-- For StepKeepsInvariant: an initialised block meets the invariant and takes a step. -/
theorem witness_StepKeepsInvariant : Inv State.reset.afterInit ∧ State.reset.afterInit.inited = true ∧
    step State.reset.afterInit = .next (idleCycle State.reset.afterInit) := by
  have hv := afterInit_values (s := State.reset) (fun h => by cases h) (fun h => by cases h)
  refine ⟨⟨by rw [afterInit_lastPos]; decide, by rw [afterInit_clkO]; rfl, fun _ => ?_, fun _ => hv.2⟩, afterInit_inited _, ?_⟩
  · rw [afterInit_cfg]; exact hv.1
  · exact step_low_nil (by rw [afterInit_rst]; rfl) (by rw [afterInit_cmds]; rfl)

end Sys2Proof.Tests
end

-- The two statements about the register file as the bus shows it (20_memory R51, R53, R55, R56, R58).
section
namespace Sys2Proof.Machine

/-! ### Mapped and unmapped addresses -/

/-- An 8-bit address is a channel's exactly when its number is `CH_BASE + CH_STRIDE*i + k` (20_memory R51). -/
theorem eq_chAddr_iff {c : Config} (h : c.wf = true) {a : BitVec 8} {i k : Nat} (hi : i ≤ 15) (hk : k ≤ 3) :
    a = chAddr c i k ↔ a.toNat = c.chBase.toNat + c.chStride * i + k := by
  rw [← BitVec.toNat_inj, chAddr_toNat h hi hk, Nat.add_assoc]

theorem ch_eq_none {s : State} {i : Nat} (h : 15 < i) : s.ch i = none := by
  rw [← Option.not_isSome_iff_eq_none, ch_isSome]
  omega

/-- Every channel byte is mapped, so it holds something. -/
theorem busByte_chAddr_ne_none {s : State} (h : s.cfg.wf = true) {i k : Nat} (hi : i ≤ 15) (hk : k ≤ 3) :
    s.busByte (chAddr s.cfg i k) ≠ none := by
  rw [busByte_chAddr h hi hk, Option.ne_none_iff_isSome, Option.isSome_map]
  exact ch_isSome.2 hi

/-- Below `CH_BASE` only MODE and PRESCALE are mapped. -/
theorem busByte_below {s : State} {a : BitVec 8} (hm : a ≠ s.cfg.modeReg) (hp : a ≠ s.cfg.prescaleReg)
    (hlt : a.toNat < s.cfg.chBase.toNat) : s.busByte a = none := by
  simp only [State.busByte, hm, hp, hlt, if_false, if_true]

/-- An address that is neither a register's nor a channel byte's holds nothing (20_memory R58): above `CH_BASE` it lies in a
gap between two channels or past channel 15. -/
theorem busByte_unmapped {s : State} (h : s.cfg.wf = true) {a : BitVec 8} (hm : a ≠ s.cfg.modeReg)
    (hp : a ≠ s.cfg.prescaleReg) (hc : ∀ i ≤ 15, ∀ k ≤ 3, a ≠ chAddr s.cfg i k) : s.busByte a = none := by
  by_cases hlt : a.toNat < s.cfg.chBase.toNat
  · exact busByte_below hm hp hlt
  have hs : 0 < s.cfg.chStride := by have := ((wf_iff _).1 h).2.1; omega
  have hqr := Nat.div_add_mod (a.toNat - s.cfg.chBase.toNat) s.cfg.chStride
  have hr := Nat.mod_lt (a.toNat - s.cfg.chBase.toNat) hs
  generalize (a.toNat - s.cfg.chBase.toNat) / s.cfg.chStride = q at hqr
  generalize (a.toNat - s.cfg.chBase.toNat) % s.cfg.chStride = r at hqr hr
  have ha : a.toNat = s.cfg.chBase.toNat + (s.cfg.chStride * q + r) := by omega
  rw [busByte_channel h hr ha hm hp]
  split
  · rfl
  · next hgap =>
    have hq : 15 < q := by
      by_contra hq
      have hi : q ≤ 15 := by omega
      have hk : r ≤ 3 := by omega
      exact hc q hi r hk ((eq_chAddr_iff h hi hk).2 (by omega))
    rw [ch_eq_none hq, Option.map_none]

theorem busByte_eq_none_iff {s : State} (h : s.cfg.wf = true) (a : BitVec 8) :
    s.busByte a = none ↔
      a ≠ s.cfg.modeReg ∧ a ≠ s.cfg.prescaleReg ∧ ∀ i ≤ 15, ∀ k ≤ 3, a ≠ chAddr s.cfg i k := by
  refine ⟨fun hn => ⟨?_, ?_, ?_⟩, fun ⟨hm, hp, hc⟩ => busByte_unmapped h hm hp hc⟩
  · rintro rfl
    simp at hn
  · rintro rfl
    simp [busByte_prescale h] at hn
  · rintro i hi k hk rfl
    exact busByte_chAddr_ne_none h hi hk hn

/-! ### The bus after a channel write -/

/-- The written channel's bytes are the pair's (20_memory R53, R55). -/
theorem busByte_chWrite_same {s : State} (h : s.cfg.wf = true) {ch k : Nat} (hch : ch ≤ 15) (hk : k ≤ 3) (on off : Tick) :
    (chWrite ch on off s).busByte (chAddr s.cfg ch k) = some ((⟨on, off⟩ : Channel).byte k) := by
  have hb := busByte_chAddr (s := chWrite ch on off s) (by rwa [chWrite_cfg]) hch hk
  rwa [chWrite_cfg, chWrite_ch hch, if_pos rfl, Option.map_some] at hb

/-- A channel write shows at no address but its own four (20_memory R56). -/
theorem busByte_chWrite_other {s : State} (h : s.cfg.wf = true) {ch : Nat} (hch : ch ≤ 15) (on off : Tick) {a : BitVec 8}
    (ha : ∀ k ≤ 3, a ≠ chAddr s.cfg ch k) : (chWrite ch on off s).busByte a = s.busByte a := by
  refine busByte_congr (chWrite_cfg ..) (chWrite_mode ..) (chWrite_prescale ..) fun i _ ⟨k, hk, hak⟩ => ?_
  refine chWrite_ch_other _ _ _ _ ?_
  rintro rfl
  exact ha k hk ((eq_chAddr_iff h hch hk).2 (by omega))

theorem chWrite_events {ch : Nat} (hch : ch ≤ 15) (on off : Tick) (s : State) :
    (chWrite ch on off s).events = s.events ++ [channelEvent s.cfg ch on off] := by
  rw [State.events, chWrite_trace hch, List.reverse_cons, State.events]

/-! ### The obligations -/

/-- Settles O15: the addresses are `chAddr` at 0..3, the bytes the low and high bytes of the two ticks. -/
theorem channelWriteBytes : Obligations.ChannelWriteBytes := by
  unfold Obligations.ChannelWriteBytes
  refine fun s ch on off => ⟨fun h hch => ?_, fun hout => chWrite_out hout on off s⟩
  have addr (k : Nat) (hk : k ≤ 3) := (eq_chAddr_iff h hch hk).1 rfl
  have a0 := addr 0 (by omega)
  have same (k : Nat) (hk : k ≤ 3) := busByte_chWrite_same h hch hk on off
  refine ⟨tickLow on, tickHigh on, tickLow off, tickHigh off,
    chAddr s.cfg ch 0, chAddr s.cfg ch 1, chAddr s.cfg ch 2, chAddr s.cfg ch 3,
    tickLow_toNat on, tickHigh_toNat on, tickLow_toNat off, tickHigh_toNat off,
    a0, ?_, ?_, ?_, chWrite_events hch on off s,
    same 0 (by omega), same 1 (by omega), same 2 (by omega), same 3 (by omega), ?_⟩
  · rw [addr 1 (by omega), a0]
  · rw [addr 2 (by omega), a0]
  · rw [addr 3 (by omega), a0]
  · intro a h0 h1 h2 h3
    refine busByte_chWrite_other h hch on off fun k hk => ?_
    match k, hk with
    | 0, _ => exact h0
    | 1, _ => exact h1
    | 2, _ => exact h2
    | 3, _ => exact h3

/-- Settles O50: each mapped address by its rule, the rest by `busByte_eq_none_iff`. -/
theorem busShowsTheRegisters : Obligations.BusShowsTheRegisters := by
  unfold Obligations.BusShowsTheRegisters
  refine fun s h => ⟨busByte_mode s, busByte_prescale h, fun i k a ha => ?_, fun a => ?_⟩
  · have hi : i.val ≤ 15 := by omega
    have hk : k.val ≤ 3 := by omega
    refine ⟨s.chs[i], (s.chs[i]).byte k, ch_val s i, ?_, ?_⟩
    · rw [(eq_chAddr_iff h hi hk).2 ha, busByte_chAddr h hi hk, ch_val, Option.map_some]
    · match k with
      | 0 => exact tickLow_toNat _
      | 1 => exact tickHigh_toNat _
      | 2 => exact tickLow_toNat _
      | 3 => exact tickHigh_toNat _
  · rw [busByte_eq_none_iff h]
    refine and_congr_right' (and_congr_right' ⟨fun hc i k => ?_, fun hc i hi k hk => ?_⟩)
    · rw [Ne, ← eq_chAddr_iff h (by omega) (by omega)]
      exact hc i (by omega) k (by omega)
    · rw [Ne, eq_chAddr_iff h hi hk]
      exact hc ⟨i, by omega⟩ ⟨k, by omega⟩

end Sys2Proof.Machine
end

-- The family 10_state: what a step does to the registers, the trace and the response (10_state R20 to R41).
section
namespace Sys2Proof.Machine

/-! ### What a command leaves of LAST_POS, the link and the ranges -/

/-- LAST_POS is written by RDPOS alone, and only with the position of a detected line (44_position R170, R175). -/
theorem exec_lastPos {i : Instr} {s t : State} (e : exec i s = .next t) :
    t.lastPos = s.lastPos ∨
    (i = .rdpos ∧ detected (normalisedRead s) = true ∧ t.lastPos = BitVec.ofInt 12 (positionOf (normalisedRead s))) := by
  obtain ⟨_, rfl⟩ | ⟨_, _, _, rfl⟩ | ⟨_, _, rfl⟩ | ⟨_, _, rfl⟩ | ⟨_, _, _, rfl⟩ | ⟨_, rfl⟩ | ⟨_, _, rfl⟩ |
    ⟨hi, hd, _, rfl⟩ | ⟨_, _, rfl⟩ := exec_cases e
  case inr.inr.inr.inr.inr.inr.inr.inl => exact .inr ⟨hi, hd, rfl⟩
  case inr.inr.inr.inr.inr.inl => rw [respondOk_lastPos, calibrate_lastPos, afterInit_lastPos]; exact .inl rfl
  all_goals simp

/-- A command that reads sensors leaves the link's lines at rest; every other one leaves the link alone (10_state R28, R40). -/
theorem exec_link {i : Instr} {s t : State} (e : exec i s = .next t) :
    ((i = .rdraw ∨ i = .calib ∨ i = .rdcal ∨ i = .rdpos) ∧ t.clkO = false ∧ t.addrO = true) ∨
    (t.clkO = s.clkO ∧ t.addrO = s.addrO ∧ t.din = s.din ∧ t.dinCount = s.dinCount) := by
  obtain ⟨_, rfl⟩ | ⟨_, _, _, rfl⟩ | ⟨_, _, rfl⟩ | ⟨_, _, rfl⟩ | ⟨_, _, _, rfl⟩ | ⟨rfl, rfl⟩ | ⟨hi, _, rfl⟩ |
    ⟨rfl, _, _, rfl⟩ | ⟨_, _, rfl⟩ := exec_cases e
  case inr.inr.inr.inr.inr.inl =>
    rw [respondOk_clkO, respondOk_addrO, calibrate_clkO, calibrate_addrO]
    exact .inl ⟨.inr (.inl rfl), rfl, rfl⟩
  case inr.inr.inr.inr.inr.inr.inl =>
    exact .inl ⟨hi.imp_right .inr, readSensors_clkO _, readSensors_addrO _⟩
  case inr.inr.inr.inr.inr.inr.inr.inl =>
    exact .inl ⟨.inr (.inr (.inr rfl)), readSensors_clkO _, readSensors_addrO _⟩
  all_goals simp

/-- The calibration ranges are written by CALIB alone (10_state R26). -/
theorem exec_ranges {i : Instr} {s t : State} (hi : i ≠ .calib) (e : exec i s = .next t) :
    t.calMin = s.calMin ∧ t.calMax = s.calMax := by
  obtain ⟨_, rfl⟩ | ⟨_, _, _, rfl⟩ | ⟨_, _, rfl⟩ | ⟨_, _, rfl⟩ | ⟨_, _, _, rfl⟩ | ⟨hc, _⟩ | ⟨_, _, rfl⟩ |
    ⟨_, _, _, rfl⟩ | ⟨_, _, rfl⟩ := exec_cases e
  case inr.inr.inr.inr.inr.inl => exact absurd hc hi
  all_goals simp

/-! ### The invariant (10_state R39) -/

/-- A position is in 0..4000, so it is stored in LAST_POS exactly (44_position R173). -/
theorem lastPos_of_position {x : Five Int} (h : detected x = true) : (BitVec.ofInt 12 (positionOf x)).toNat ≤ 4000 := by
  obtain ⟨_, _, h0, h1⟩ := positionOf_spec h
  have := tickOfInt_toNat h0 (by omega)
  rw [tickOfInt] at this
  omega

theorem exec_keeps_inv {i : Instr} {s t : State} (h : Inv s) (e : exec i s = .next t) : Inv t := by
  obtain ⟨hmode, hpre⟩ := afterInit_values h.mode h.prescale
  refine ⟨?_, ?_, fun hi => ?_, fun hi => ?_⟩
  · rcases exec_lastPos e with hp | ⟨_, hd, hp⟩
    · rw [hp]; exact h.lastPos
    · rw [hp]; exact lastPos_of_position hd
  · rcases exec_link e with ⟨_, hc, _⟩ | ⟨hc, _⟩
    · exact hc
    · rw [hc]; exact h.clk
  · rw [exec_inited_eq e] at hi
    rw [exec_mode e, exec_cfg e]
    split
    · next hg => exact h.mode (by rwa [if_pos hg] at hi)
    · exact hmode
  · rw [exec_inited_eq e] at hi
    rw [exec_prescale e]
    split
    · next hg => exact h.prescale (by rwa [if_pos hg] at hi)
    · exact hpre

/-- The command port and the response are no registers: `accepted`, `respondIllegal` and `idleCycle` change these alone. -/
theorem inv_of_ports {s : State} (h : Inv s) (cmds : List Command) (rsp : Option Response) :
    Inv { s with cmds := cmds, rsp := rsp } :=
  ⟨h.lastPos, h.clk, h.mode, h.prescale⟩

theorem runWord_keeps_inv {w : Command} {s t : State} (h : Inv s) (e : runWord w s = .next t) : Inv t := by
  rcases runWord_cases e with ⟨_, _, rfl⟩ | ⟨i, _, e⟩
  · exact inv_of_ports h _ _
  · exact exec_keeps_inv h e

/-- A reset leaves an uninitialised block, so it meets the invariant whatever the state was (10_state R37). -/
theorem inv_resetFrom (s : State) : Inv (resetFrom s) :=
  ⟨by simp, resetFrom_clkO s, by simp, by simp⟩

/-- Settles O49: a reset gives the invariant afresh; a command keeps it by `exec_keeps_inv`. -/
theorem stepKeepsInvariant : Obligations.StepKeepsInvariant := by
  unfold Obligations.StepKeepsInvariant
  intro s t h e
  rcases step_cases e with ⟨_, rfl⟩ | ⟨n, w, rest, u, _, _, _, rfl⟩ | ⟨_, _, rfl⟩ | ⟨w, rest, _, _, hw⟩
  · exact inv_resetFrom s
  · exact inv_resetFrom _
  · exact inv_of_ports h _ _
  · exact runWord_keeps_inv (inv_of_ports h _ _) hw

/-- Settles O48: the reset state is not initialised. -/
theorem resetMeetsInvariant : Obligations.ResetMeetsInvariant := by
  unfold Obligations.ResetMeetsInvariant
  have hi : State.reset.inited ≠ true := Bool.false_ne_true
  exact ⟨Nat.zero_le _, rfl, fun h => absurd h hi, fun h => absurd h hi⟩

/-- Settles O45: each value is the one `State.reset` writes, and the five bounds of a range are one value. -/
theorem resetValues : Obligations.ResetValues := by
  unfold Obligations.ResetValues
  exact ⟨rfl, fun i => ⟨Five.get_all 100 i, Five.get_all 650 i⟩, rfl, rfl, rfl, rfl, rfl⟩

/-! ### The command port and the response (10_state R33, R34) -/

theorem runWord_cmds {w : Command} {s t : State} (h : runWord w s = .next t) : t.cmds = s.cmds := by
  rcases runWord_cases h with ⟨_, _, rfl⟩ | ⟨i, _, e⟩
  · exact respondIllegal_cmds s
  · exact exec_cmds e

/-- Every word, legal or not, is answered (10_state R33, 30_encoding R75). -/
theorem runWord_rsp {w : Command} {s t : State} (h : runWord w s = .next t) : ∃ r, t.rsp = some r := by
  rcases runWord_cases h with ⟨_, _, rfl⟩ | ⟨i, _, e⟩
  · exact ⟨_, respondIllegal_rsp s⟩
  · exact exec_rsp e

/-- While a response is present the ports carry it (10_state R34). -/
theorem ports_of_rsp {t : State} {r : Response} (h : t.rsp = some r) :
    t.rspValid = true ∧ t.rspResults = some r.r ∧ t.rspStatus = some r.status.code := by
  simp only [State.rspValid, State.rspResults, State.rspStatus, h, Option.isSome_some, Option.map_some, and_self]

/-- Settles O8: the step is the word's run, which always completes and answers. -/
theorem acceptedCommandGetsOneResponse : Obligations.AcceptedCommandGetsOneResponse := by
  unfold Obligations.AcceptedCommandGetsOneResponse
  intro s w rest hr hc
  obtain ⟨t, ht⟩ := runWord_completes w (accepted rest s)
  obtain ⟨r, hrsp⟩ := runWord_rsp ht
  obtain ⟨hvalid, hresults, hstatus⟩ := ports_of_rsp hrsp
  have code (st : Status) (h : r.status = st) : t.rspStatus = some st.code := by rw [hstatus, h]
  exact ⟨t, r, (step_low_cons hr hc).trans ht, hrsp, runWord_cmds ht, hvalid, hresults,
    code .ok, code .ignored, code .illegal⟩

/-- Settles O6: a step with a word offered is the word's run, and a word that decodes runs its command. -/
theorem stepRunsTheDecodedCommand : Obligations.StepRunsTheDecodedCommand := by
  unfold Obligations.StepRunsTheDecodedCommand
  intro s w rest i hr hc hd _
  rw [step_low_cons hr hc, runWord_ok hd, accepted]

/-! ### Frames of the commands (10_state R26, R28, R40) -/

/-- Settles O40: every command completes, and `exec_ranges` is its frame. -/
theorem onlyCalibWritesRanges : Obligations.OnlyCalibWritesRanges := by
  unfold Obligations.OnlyCalibWritesRanges
  intro i s hi
  obtain ⟨t, e⟩ := exec_completes i s
  exact ⟨t, e, exec_ranges hi e⟩

/-- Settles O41: `exec_link`, whose first case names the four commands that read. -/
theorem onlyReadsMoveTheLink : Obligations.OnlyReadsMoveTheLink := by
  unfold Obligations.OnlyReadsMoveTheLink
  intro i s hraw hcalib hcal hpos
  obtain ⟨t, e⟩ := exec_completes i s
  have nonread : ¬ (i = .rdraw ∨ i = .calib ∨ i = .rdcal ∨ i = .rdpos) := by
    rintro (h | h | h | h)
    exacts [hraw h, hcalib h, hcal h, hpos h]
  exact ⟨t, e, (exec_link e).resolve_left fun h => nonread h.1⟩

/-! ### The trace (10_state R36) -/

/-- A reset in the life of a command leaves the trace it found and some events of the command (70_reset_and_hazards R207). -/
theorem abandonAt_trace (n : Nat) (s t : State) : ∃ es, (abandonAt n s t).trace = es ++ s.trace := ⟨_, rfl⟩

/-- A step puts its events, if any, in front of the trace, which is kept newest first. -/
theorem step_trace {s t : State} (h : step s = .next t) : ∃ es, t.trace = es ++ s.trace := by
  rcases step_cases h with ⟨_, rfl⟩ | ⟨n, w, rest, u, _, _, _, rfl⟩ | ⟨_, _, rfl⟩ | ⟨w, rest, _, _, hw⟩
  · exact ⟨[], resetFrom_trace s⟩
  · exact abandonAt_trace n (accepted rest s) u
  · exact ⟨[], idleCycle_trace s⟩
  · obtain ⟨es, he⟩ := runWord_trace hw
    exact ⟨es, he⟩

/-- Settles O43: `step_trace`, read oldest first. -/
theorem traceOnlyGrows : Obligations.TraceOnlyGrows := by
  unfold Obligations.TraceOnlyGrows
  intro s t h
  obtain ⟨es, he⟩ := step_trace h
  exact ⟨es.reverse, emits_of_trace (by rw [he, List.reverse_reverse])⟩

/-! ### What reset leaves unspecified (10_state R37) -/

/-- The sixteen channels are what `State.ch` shows of them. -/
theorem chs_ext {s t : State} (h : ∀ i ≤ 15, t.ch i = s.ch i) : t.chs = s.chs := by
  ext1 i hi
  have e := h i (by omega)
  rwa [ch_val t ⟨i, hi⟩, ch_val s ⟨i, hi⟩, Option.some_inj] at e

/-- The first initialisation writes every channel, MODE and PRESCALE, and reads MODE only after writing it (20_memory R54), so
it ends in the same state whatever these registers held. -/
theorem afterInit_of_unspecified {s : State} (h : s.inited = false) (cs : Vector Channel 16) (m p : Byte) :
    ({ s with chs := cs, mode := m, prescale := p } : State).afterInit = s.afterInit := by
  have h' : ({ s with chs := cs, mode := m, prescale := p } : State).inited = false := h
  apply State.ext
  case chs => exact chs_ext fun i hi => by rw [afterInit_ch h' hi, afterInit_ch h hi]
  case mode => rw [afterInit_mode h', afterInit_mode h]
  case prescale => rw [afterInit_prescale h', afterInit_prescale h]
  case trace => rw [afterInit_trace h', afterInit_trace h]
  all_goals simp

/-- Settles O51: a command that initialises is its own work on `afterInit`; GETMAX and GETMIN answer the ranges. -/
theorem unspecifiedRegistersAreNotRead : Obligations.UnspecifiedRegistersAreNotRead := by
  unfold Obligations.UnspecifiedRegistersAreNotRead
  refine fun s cs m p h => ⟨fun i hmax hmin => ?_, fun i hi => ?_⟩
  · obtain ⟨rest, hrest⟩ := exec_withInit hmax hmin
    refine ⟨rest s.afterInit, hrest s, ?_⟩
    rw [hrest, withInit_eq, afterInit_of_unspecified h]
  · rcases hi with rfl | rfl
    · exact ⟨_, exec_getmax s, exec_getmax _⟩
    · exact ⟨_, exec_getmin s, exec_getmin _⟩

end Sys2Proof.Machine
end

-- The family 30_encoding: the decoder, its inverse, and the (match, mask) table (30_encoding R70 to R84).
section
namespace Sys2Proof

/-! ### Fields -/

/-- A word is told by its four fields (30_encoding R70). -/
theorem eq_packWord_iff {op a : Byte} {b c : Half} {w : Command} :
    w = packWord op a b c ↔ w.op = op ∧ w.a = a ∧ w.b = b ∧ w.c = c := by
  constructor
  · rintro rfl
    exact ⟨packWord_op .., packWord_a .., packWord_b .., packWord_c ..⟩
  · rintro ⟨rfl, rfl, rfl, rfl⟩
    exact (packWord_fields w).symm

@[simp] theorem op_and (v w : Command) : (v &&& w).op = v.op &&& w.op := BitVec.extractLsb'_and

@[simp] theorem a_and (v w : Command) : (v &&& w).a = v.a &&& w.a := BitVec.extractLsb'_and

@[simp] theorem b_and (v w : Command) : (v &&& w).b = v.b &&& w.b := BitVec.extractLsb'_and

@[simp] theorem c_and (v w : Command) : (v &&& w).c = v.c &&& w.c := BitVec.extractLsb'_and

theorem op_toNat (w : Command) : w.op.toNat = w.toNat / 2 ^ 40 := by
  rw [Command.op, BitVec.extractLsb'_toNat, Nat.shiftRight_eq_div_pow]
  omega

theorem a_toNat (w : Command) : w.a.toNat = w.toNat / 2 ^ 32 % 2 ^ 8 := by
  rw [Command.a, BitVec.extractLsb'_toNat, Nat.shiftRight_eq_div_pow]

theorem b_toNat (w : Command) : w.b.toNat = w.toNat / 2 ^ 16 % 2 ^ 16 := by
  rw [Command.b, BitVec.extractLsb'_toNat, Nat.shiftRight_eq_div_pow]

theorem c_toNat (w : Command) : w.c.toNat = w.toNat % 2 ^ 16 := by
  rw [Command.c, BitVec.extractLsb'_toNat, Nat.shiftRight_zero]

/-- A tick's field has its reserved bits zero exactly when its number is a tick's (30_encoding R71). -/
theorem tickReserved_eq_zero_iff {f : Half} : tickReserved f = 0#4 ↔ f.toNat < 4096 := by
  rw [← BitVec.toNat_inj, tickReserved, BitVec.extractLsb'_toNat, Nat.shiftRight_eq_div_pow, BitVec.toNat_ofNat]
  omega

theorem tickReserved_and (f g : Half) : tickReserved (f &&& g) = tickReserved f &&& tickReserved g :=
  BitVec.extractLsb'_and

/-- The mask 0xF000 picks the reserved bits of a tick's field. -/
theorem and_tickMask_eq_zero_iff {f : Half} : f &&& 61440#16 = 0#16 ↔ tickReserved f = 0#4 := by
  constructor
  · intro h
    calc tickReserved f = tickReserved f &&& 15#4 := BitVec.and_allOnes.symm
      _ = tickReserved (f &&& 61440#16) := by rw [tickReserved_and]; rfl
      _ = 0#4 := by rw [h]; rfl
  · intro h
    calc f &&& 61440#16 = fieldOfTick (tickField f) &&& (15#4 ++ 0#12) := by rw [fieldOfTick_tickField h]; rfl
      _ = (0#4 &&& 15#4) ++ (tickField f &&& 0#12) := BitVec.and_append
      _ = 0#16 := by rw [BitVec.and_zero]; rfl

/-! ### Formats -/

/-- The five formats of 30_encoding R71. -/
inductive Format where
  | n
  | a
  | ab
  | abc
  | t

/-- The fields that the format reserves are zero (30_encoding R71). -/
def Format.reservedZero : Format → Command → Bool
  | .n => reservedN
  | .a => reservedA
  | .ab => reservedAB
  | .abc => fun _ => true
  | .t => reservedT

/-- The bits that 30_encoding R84 compares in a word of the format: the opcode and the reserved fields. -/
def Format.mask : Format → Command
  | .n => packWord 0xFF 0xFF 0xFFFF 0xFFFF
  | .a => packWord 0xFF 0 0xFFFF 0xFFFF
  | .ab => packWord 0xFF 0 0 0xFFFF
  | .abc => packWord 0xFF 0 0 0
  | .t => packWord 0xFF 0 0xF000 0xF000

/-- A word matches an opcode under its format's mask exactly when it has the opcode and its reserved fields are zero. -/
theorem and_mask_eq_iff (f : Format) (w : Command) (op : Byte) :
    w &&& f.mask = packWord op 0 0 0 ↔ w.op = op ∧ f.reservedZero w = true := by
  have hbyte (x : Byte) : x &&& 255#8 = x := BitVec.and_allOnes
  have hhalf (x : Half) : x &&& 65535#16 = x := BitVec.and_allOnes
  cases f <;>
    simp [eq_packWord_iff, Format.mask, Format.reservedZero, reservedN, reservedA, reservedAB, reservedT, hbyte, hhalf,
      and_tickMask_eq_zero_iff, and_assoc]

/-! ### The format, the opcode and the row of a command -/

/-- The format of a command (30_encoding R73). -/
def Instr.format : Instr → Format
  | .setch _ _ _ => .t
  | .srvang _ _ | .srvpls _ _ | .setled _ _ | .runmot _ _ | .drive _ _ => .ab
  | .drivefor _ _ _ => .abc
  | .stopmot _ => .a
  | .init | .rdraw | .calib | .getmax | .getmin | .rdcal | .rdpos => .n

/-- The opcode of a command (30_encoding R73). -/
def Instr.opcode : Instr → Byte
  | .init => 0x01
  | .setch _ _ _ => 0x02
  | .srvang _ _ => 0x03
  | .srvpls _ _ => 0x04
  | .setled _ _ => 0x05
  | .runmot _ _ => 0x06
  | .drive _ _ => 0x07
  | .drivefor _ _ _ => 0x08
  | .stopmot _ => 0x09
  | .rdraw => 0x0A
  | .calib => 0x0B
  | .getmax => 0x0C
  | .getmin => 0x0D
  | .rdcal => 0x0E
  | .rdpos => 0x0F

/-- The row of 30_encoding R84 for a command's mnemonic. -/
def Instr.row (i : Instr) : OpcodeRow := ⟨i.mnemonic, packWord i.opcode 0 0 0, i.format.mask⟩

theorem row_selects_iff (i : Instr) (w : Command) :
    i.row.selects w = true ↔ w.op = i.opcode ∧ i.format.reservedZero w = true := by
  rw [OpcodeRow.selects, beq_iff_eq, Instr.row, and_mask_eq_iff]

theorem row_pattern_op (i : Instr) : i.row.pattern.op = i.opcode := packWord_op ..

theorem row_mem (i : Instr) : i.row ∈ opcodeTable := by
  cases i <;> simp only [Instr.row, Instr.mnemonic, Instr.opcode, Instr.format] <;> decide

/-- The rows are told apart by their opcodes. -/
theorem opcodes_nodup : (opcodeTable.map fun r => r.pattern.op).Nodup := by decide

/-- The rows are told apart by their mnemonics. -/
theorem mnemonics_nodup : (opcodeTable.map fun r => r.mnemonic).Nodup := by decide

/-- The rows have the defined opcodes (30_encoding R73). -/
theorem pattern_op_range : ∀ r ∈ opcodeTable, 1 ≤ r.pattern.op.toNat ∧ r.pattern.op.toNat ≤ 15 := by decide

/-- Every row compares the whole opcode. -/
theorem op_of_selects {r : OpcodeRow} (hr : r ∈ opcodeTable) {w : Command} (h : r.selects w = true) :
    w.op = r.pattern.op := by
  have hmask : ∀ r ∈ opcodeTable, r.mask.op = BitVec.allOnes 8 := by decide
  rw [OpcodeRow.selects, beq_iff_eq] at h
  rw [← h, op_and, hmask r hr, BitVec.and_allOnes]

/-! ### What a word decodes to -/

/-- `i` is the command that `w` stands for if its reserved fields are zero. -/
structure Command.ReadsAs (w : Command) (i : Instr) : Prop where
  op : w.op = i.opcode
  wellFormed : i.wellFormed = true
  decode_eq : decode w = accept (i.format.reservedZero w) i
  encode_eq : i.format.reservedZero w = true → w = encode i

section Reads

variable {w : Command} {op a : Byte}

theorem eq_packWord_of_reservedN (hop : w.op = op) (h : reservedN w = true) : w = packWord op 0 0 0 := by
  simpa [eq_packWord_iff, hop, reservedN, and_assoc] using h

theorem eq_packWord_of_reservedA (hop : w.op = op) (ha : w.a = a) (h : reservedA w = true) : w = packWord op a 0 0 := by
  simpa [eq_packWord_iff, hop, ha, reservedA] using h

theorem eq_packWord_of_reservedAB (hop : w.op = op) (ha : w.a = a) (h : reservedAB w = true) :
    w = packWord op a w.b 0 := by
  simpa [eq_packWord_iff, hop, ha, reservedAB] using h

theorem eq_packWord_of_reservedT (hop : w.op = op) (h : reservedT w = true) :
    w = packWord op w.a (fieldOfTick (tickField w.b)) (fieldOfTick (tickField w.c)) := by
  simp only [reservedT, Bool.and_eq_true, beq_iff_eq] at h
  obtain ⟨hb, hc⟩ := h
  rw [fieldOfTick_tickField hb, fieldOfTick_tickField hc, eq_packWord_iff]
  exact ⟨hop, rfl, rfl, rfl⟩

end Reads

/-- Every word with a defined opcode reads as a command (30_encoding R73). -/
theorem exists_readsAs {w : Command} (h : 1 ≤ w.op.toNat ∧ w.op.toNat ≤ 15) : ∃ i, w.ReadsAs i := by
  obtain ⟨hdir, hdirWF⟩ := dirCode_dirOfCode w.a
  obtain ⟨hwhich, hwhichWF⟩ := whichCode_whichOfCode w.a
  obtain ⟨h1, h15⟩ := h
  generalize hn : w.op.toNat = n at h1 h15
  have hop : w.op = BitVec.ofNat 8 n := by rw [← hn, BitVec.ofNat_toNat, BitVec.setWidth_eq]
  have hdec := decode.eq_def w
  rw [hn] at hdec
  interval_cases n
  · exact ⟨.init, hop, rfl, hdec, eq_packWord_of_reservedN hop⟩
  · exact ⟨.setch w.a (tickField w.b) (tickField w.c), hop, rfl, hdec, eq_packWord_of_reservedT hop⟩
  · exact ⟨.srvang w.a w.b, hop, rfl, hdec, eq_packWord_of_reservedAB hop rfl⟩
  · exact ⟨.srvpls w.a w.b, hop, rfl, hdec, eq_packWord_of_reservedAB hop rfl⟩
  · exact ⟨.setled w.a w.b, hop, rfl, hdec, eq_packWord_of_reservedAB hop rfl⟩
  · exact ⟨.runmot w.a w.b, hop, rfl, hdec, eq_packWord_of_reservedAB hop rfl⟩
  · exact ⟨.drive (dirOfCode w.a) w.b, hop, hdirWF, hdec,
      eq_packWord_of_reservedAB hop hdir.symm⟩
  · exact ⟨.drivefor (dirOfCode w.a) w.b w.c, hop, hdirWF, hdec,
      fun _ => eq_packWord_iff.2 ⟨hop, hdir.symm, rfl, rfl⟩⟩
  · exact ⟨.stopmot (whichOfCode w.a), hop, hwhichWF, hdec,
      eq_packWord_of_reservedA hop hwhich.symm⟩
  · exact ⟨.rdraw, hop, rfl, hdec, eq_packWord_of_reservedN hop⟩
  · exact ⟨.calib, hop, rfl, hdec, eq_packWord_of_reservedN hop⟩
  · exact ⟨.getmax, hop, rfl, hdec, eq_packWord_of_reservedN hop⟩
  · exact ⟨.getmin, hop, rfl, hdec, eq_packWord_of_reservedN hop⟩
  · exact ⟨.rdcal, hop, rfl, hdec, eq_packWord_of_reservedN hop⟩
  · exact ⟨.rdpos, hop, rfl, hdec, eq_packWord_of_reservedN hop⟩

theorem decode_undefined {w : Command} (h : ¬ (1 ≤ w.op.toNat ∧ w.op.toNat ≤ 15)) :
    decode w = .error .undefinedOpcode := by
  unfold decode
  split
  case h_16 => rfl
  all_goals omega

/-- A decoded word is the word of its command, which is well formed, and selects the command's row. -/
theorem of_decode_ok {w : Command} {i : Instr} (h : decode w = .ok i) :
    encode i = w ∧ i.wellFormed = true ∧ i.row.selects w = true := by
  by_cases hop : 1 ≤ w.op.toNat ∧ w.op.toNat ≤ 15
  · obtain ⟨j, hj⟩ := exists_readsAs hop
    obtain ⟨hzero, rfl⟩ := accept_eq_ok.1 (hj.decode_eq.symm.trans h)
    exact ⟨(hj.encode_eq hzero).symm, hj.wellFormed, (row_selects_iff j w).2 ⟨hj.op, hzero⟩⟩
  · cases (decode_undefined hop).symm.trans h

/-- A word that selects a row decodes to a command of that row. -/
theorem decode_of_selects {r : OpcodeRow} (hr : r ∈ opcodeTable) {w : Command} (h : r.selects w = true) :
    ∃ i, decode w = .ok i ∧ i.row = r := by
  have hop := op_of_selects hr h
  obtain ⟨i, hi⟩ := exists_readsAs (hop ▸ pattern_op_range r hr)
  have hrow : i.row = r := by
    refine List.inj_on_of_nodup_map opcodes_nodup (row_mem i) hr ?_
    rw [row_pattern_op, ← hi.op, hop]
  obtain ⟨_, hzero⟩ := (row_selects_iff i w).1 (hrow ▸ h)
  exact ⟨i, by rw [hi.decode_eq, hzero, accept_true], hrow⟩

theorem selects_iff_decode {r : OpcodeRow} (hr : r ∈ opcodeTable) (w : Command) :
    r.selects w = true ↔ ∃ i, decode w = .ok i ∧ i.mnemonic = r.mnemonic := by
  constructor
  · intro h
    obtain ⟨i, hi, hrow⟩ := decode_of_selects hr h
    exact ⟨i, hi, congrArg OpcodeRow.mnemonic hrow⟩
  · rintro ⟨i, hi, hm⟩
    have hrow : i.row = r := List.inj_on_of_nodup_map mnemonics_nodup (row_mem i) hr hm
    obtain ⟨_, _, hsel⟩ := of_decode_ok hi
    exact hrow ▸ hsel

/-! ### Illegal words -/

theorem reservedN_eq_false {w : Command} :
    reservedN w = false ↔ w.a.toNat ≠ 0 ∨ w.b.toNat ≠ 0 ∨ w.c.toNat ≠ 0 := by
  simp [reservedN, ← BitVec.toNat_inj, imp_iff_not_or, or_assoc]

theorem reservedA_eq_false {w : Command} : reservedA w = false ↔ w.b.toNat ≠ 0 ∨ w.c.toNat ≠ 0 := by
  simp [reservedA, ← BitVec.toNat_inj, imp_iff_not_or]

theorem reservedAB_eq_false {w : Command} : reservedAB w = false ↔ w.c.toNat ≠ 0 := by
  simp [reservedAB, ← BitVec.toNat_inj]

theorem reservedT_eq_false {w : Command} : reservedT w = false ↔ 4096 ≤ w.b.toNat ∨ 4096 ≤ w.c.toNat := by
  simp [reservedT, tickReserved_eq_zero_iff, imp_iff_not_or]

end Sys2Proof

namespace Sys2Proof.Machine

/-- With a defined opcode, R76's numbers say that a reserved field of the command's format is not zero. -/
theorem illegalWord_iff_of_opcode {w : Command} {i : Instr} (h : w.op = i.opcode) :
    IllegalWord w ↔ i.format.reservedZero w = false := by
  simp only [IllegalWord, ← op_toNat, ← a_toNat, ← b_toNat, ← c_toNat, h]
  cases i <;>
    simp [Instr.opcode, Instr.format, Format.reservedZero, reservedN_eq_false, reservedA_eq_false, reservedAB_eq_false,
      reservedT_eq_false]

theorem illegalWord_of_undefined {w : Command} (h : ¬ (1 ≤ w.op.toNat ∧ w.op.toNat ≤ 15)) : IllegalWord w := by
  simp only [IllegalWord, ← op_toNat]
  omega

theorem decode_error_iff (w : Command) : (∃ e, decode w = .error e) ↔ IllegalWord w := by
  by_cases hop : 1 ≤ w.op.toNat ∧ w.op.toNat ≤ 15
  · obtain ⟨i, hi⟩ := exists_readsAs hop
    rw [hi.decode_eq, accept_isError, illegalWord_iff_of_opcode hi.op]
  · exact iff_of_true ⟨_, decode_undefined hop⟩ (illegalWord_of_undefined hop)

/-! ### The obligations -/

/-- Settles O1: each command's round trip, by the law of its constructor. -/
theorem decodeOfEncodeIsIdentity : Obligations.DecodeOfEncodeIsIdentity := by
  unfold Obligations.DecodeOfEncodeIsIdentity
  intro i
  cases i with
  | init => exact Laws.RoundTrip.init
  | setch ch on off => exact Laws.RoundTrip.setch ch on off
  | srvang ch deg => exact Laws.RoundTrip.srvang ch deg
  | srvpls ch us => exact Laws.RoundTrip.srvpls ch us
  | setled id level => exact Laws.RoundTrip.setled id level
  | runmot id speed => exact Laws.RoundTrip.runmot id speed
  | drive dir speed => exact Laws.RoundTrip.drive dir speed
  | drivefor dir speed seconds => exact Laws.RoundTrip.drivefor dir speed seconds
  | stopmot which => exact Laws.RoundTrip.stopmot which
  | rdraw => exact Laws.RoundTrip.rdraw
  | calib => exact Laws.RoundTrip.calib
  | getmax => exact Laws.RoundTrip.getmax
  | getmin => exact Laws.RoundTrip.getmin
  | rdcal => exact Laws.RoundTrip.rdcal
  | rdpos => exact Laws.RoundTrip.rdpos

/-- Settles O2: `of_decode_ok`, which reads the word's fields off the decoder's cases. -/
theorem encodeOfDecodeIsIdentity : Obligations.EncodeOfDecodeIsIdentity := by
  unfold Obligations.EncodeOfDecodeIsIdentity
  intro w i h
  obtain ⟨hword, hwf, _⟩ := of_decode_ok h
  exact ⟨hword, hwf⟩

/-- Settles O3: a row is selected by its command's words (`selects_iff_decode`), two rows differ in the opcode that both
compare, and a decoded word selects its command's row. -/
theorem decodeAgreesWithMatchAndMask : Obligations.DecodeAgreesWithMatchAndMask := by
  unfold Obligations.DecodeAgreesWithMatchAndMask
  refine ⟨fun w r hr => selects_iff_decode hr w, fun w => ?_, fun w hnone => ?_⟩
  · refine (List.pairwise_map.1 opcodes_nodup).imp_of_mem fun hr hq hne ⟨hrw, hqw⟩ => hne ?_
    rw [← op_of_selects hr hrw, ← op_of_selects hq hqw]
  · cases h : decode w with
    | error e => exact ⟨e, rfl⟩
    | ok i =>
      obtain ⟨_, _, hsel⟩ := of_decode_ok h
      cases hsel.symm.trans (hnone i.row (row_mem i))

/-- Settles O5: the words are those of `decode_error_iff`, and a step with one offered is its answer. -/
theorem illegalWordHasNoEffect : Obligations.IllegalWordHasNoEffect := by
  unfold Obligations.IllegalWordHasNoEffect
  refine ⟨decode_error_iff, fun s w rest hr hc hw => ?_⟩
  obtain ⟨e, he⟩ := (decode_error_iff w).2 hw
  rw [step_low_cons hr hc, runWord_error he]
  rfl

/-- Settles O4: the six words are closed, so the decoder runs on them. -/
theorem exampleWordsDecode : Obligations.ExampleWordsDecode := by
  unfold Obligations.ExampleWordsDecode
  decide

end Sys2Proof.Machine
end

-- The family 40_pwm_controller: the initialisation, SETCH and the duty window (40_pwm_controller R90 to R101).
section
namespace Sys2Proof.Machine

/-! ### The initialisation -/

/-- The fifteen channels beside the gate are zeroed, whichever of 0..10 the gate is (40_pwm_controller R95). -/
theorem zeroedChannels_length (c : Config) : (zeroedChannels c).length = 15 :=
  have all : ∀ g : Fin 11, ((List.range 16).filter fun ch => ch != g.val).length = 15 := by decide
  all c.gateCh

/-- 40_pwm_controller R92, R95: eight events, then one for each zeroed channel. -/
theorem initEvents_length (c : Config) : (initEvents c).length = 23 := by
  have h := zeroedChannels_length c
  rw [zeroedChannels, Config.nCh] at h
  rw [initEvents, List.length_append, List.length_map, h]
  rfl

theorem afterInit_emits {s : State} (h : s.inited = false) : Emits (initEvents s.cfg) s s.afterInit :=
  emits_of_trace (afterInit_trace h)

/-- MODE after the first initialisation, with the numbers of 00_scope R8 (40_pwm_controller R101). -/
theorem initialisedMode_of_R8 {c : Config} (h : c.hasR8Numbers = true) : initialisedMode c = 0xA0 := by
  simp only [Config.hasR8Numbers, Bool.and_eq_true, beq_iff_eq] at h
  obtain ⟨⟨⟨⟨⟨_, hreset⟩, _⟩, hai⟩, hrestart⟩, _⟩ := h
  rw [initialisedMode, hreset, hrestart, hai]
  decide

/-- Settles O10: INIT ends in `afterInit`, whose registers are those of its laws. -/
theorem firstInitialisationState : Obligations.FirstInitialisationState := by
  unfold Obligations.FirstInitialisationState
  intro s h
  have ch (i : Nat) (hi : i ≤ 15) :
      (respondOk s.afterInit).ch i = some (if i = s.cfg.gateCh.val then ⟨0, 4095⟩ else ⟨0, 0⟩) :=
    (ch_congr (respondOk_chs _) i).trans (afterInit_ch h hi)
  refine ⟨_, exec_init s, afterInit_inited s, afterInit_mode h,
    fun hr => (afterInit_mode h).trans (initialisedMode_of_R8 hr), afterInit_prescale h, ?_, fun i hi hne => ?_,
    afterInit_calMin s, afterInit_calMax s, afterInit_lastPos s, afterInit_clkO s, afterInit_addrO s, rfl⟩
  · rw [ch _ (fin11_le _), if_pos rfl]
  · rw [ch i hi, if_neg hne]

/-- Settles O11: INIT adds only the response to `afterInit`, which emits the sequence and keeps the rest. -/
theorem initialisationEvents : Obligations.InitialisationEvents := by
  unfold Obligations.InitialisationEvents
  intro s h
  exact ⟨_, exec_init s, rfl, afterInit_emits h, initEvents_length s.cfg, afterInit_calMin s, afterInit_calMax s,
    afterInit_lastPos s, afterInit_clkO s, afterInit_addrO s, afterInit_cmds s, afterInit_rst s, afterInit_din s,
    afterInit_dinCount s, afterInit_resetCount s, afterInit_cfg s⟩

/-- Settles O12: INIT is `afterInit` and its response, and `afterInit` is the identity once INITED is 1. -/
theorem secondInitDoesNothing : Obligations.SecondInitDoesNothing := by
  unfold Obligations.SecondInitDoesNothing
  intro s h
  rw [exec_init, afterInit_of_inited h]
  rfl

/-! ### What each command does to INITED, MODE and PRESCALE -/

/-- The events of a self-initialising command that runs the initialisation begin with those of the sequence
(40_pwm_controller R100). -/
theorem exec_emits_initEvents {i : Instr} {s t : State} (hi : ¬ (i = .getmax ∨ i = .getmin)) (h : s.inited = false)
    (e : exec i s = .next t) : ∃ es, Emits (initEvents s.cfg ++ es) s t := by
  obtain ⟨es, hes⟩ := (exec_trace e).resolve_left fun hg => hi hg.1
  refine ⟨es.reverse, emits_of_trace ?_⟩
  rw [hes, afterInit_trace h, List.reverse_append, List.reverse_reverse, List.append_assoc]

/-- GETMAX and GETMIN change the response alone (43_calibrator R156, R157). -/
theorem exec_get {i : Instr} (hi : i = .getmax ∨ i = .getmin) (s : State) : ∃ r, exec i s = .next (respond .ok r s) := by
  rcases hi with rfl | rfl
  · exact ⟨_, exec_getmax s⟩
  · exact ⟨_, exec_getmin s⟩

/-- Settles O13: the set by `exec_inited_eq` and the order of the events by `exec_emits_initEvents`. -/
theorem selfInitialisingSet : Obligations.SelfInitialisingSet := by
  unfold Obligations.SelfInitialisingSet
  refine ⟨fun i s hmax hmin => ?_, fun i s hi => ?_, fun s h => afterInit_of_inited h⟩
  · have hi : ¬ (i = .getmax ∨ i = .getmin) := not_or.2 ⟨hmax, hmin⟩
    obtain ⟨t, e⟩ := exec_completes i s
    exact ⟨t, e, (exec_inited_eq e).trans (if_neg hi), fun h => exec_emits_initEvents hi h e⟩
  · obtain ⟨r, e⟩ := exec_get hi s
    exact ⟨_, e, respond_inited .ok r s, emits_of_trace (respond_trace .ok r s)⟩

/-- Settles O42: MODE and PRESCALE are at most those of `afterInit`, which is the state itself once INITED is 1. -/
theorem modeAndPrescaleStay : Obligations.ModeAndPrescaleStay := by
  unfold Obligations.ModeAndPrescaleStay
  intro i s h
  obtain ⟨t, e⟩ := exec_completes i s
  have hmode := exec_mode e
  have hpre := exec_prescale e
  rw [afterInit_of_inited h, ite_self] at hmode hpre
  exact ⟨t, e, hmode, hpre, exec_inited h e⟩

/-! ### SETCH -/

/-- Settles O14: SETCH is one channel write on `afterInit`, or the IGNORED response to it. -/
theorem setchWritesOneChannel : Obligations.SetchWritesOneChannel := by
  unfold Obligations.SetchWritesOneChannel
  refine fun s ch on off => ⟨fun hch => ?_, fun hout => ?_⟩
  · refine ⟨_, (exec_setch ch on off s).trans (congrArg _ (if_neg (Nat.not_lt.2 hch))), rfl, ?_⟩
    exact chWrite_leaves hch on off s
  · rw [exec_setch, if_pos hout]
    rfl

/-! ### The duty window -/

/-- The window said of the ticks' numbers: how far the phase is past `on`, and how far `off` is, both round the 4096 ticks of
the period (40_pwm_controller R96). -/
theorem asserted_iff (on off t : Tick) :
    (⟨on, off⟩ : Channel).asserted t = true ↔
      (4096 - on.toNat + t.toNat) % 4096 < (4096 - on.toNat + off.toNat) % 4096 := by
  rw [Channel.asserted, decide_eq_true_iff, BitVec.toNat_sub, BitVec.toNat_sub]

/-- A window that does not wrap. -/
theorem asserted_of_lt {on off : Tick} (h : on.toNat < off.toNat) (t : Tick) :
    (⟨on, off⟩ : Channel).asserted t = true ↔ on.toNat ≤ t.toNat ∧ t.toNat < off.toNat := by
  rw [asserted_iff]
  omega

theorem asserted_of_eq (on t : Tick) : (⟨on, on⟩ : Channel).asserted t = false := by
  rw [← Bool.not_eq_true, asserted_iff]
  omega

/-- A window that wraps past the end of the period. -/
theorem asserted_of_gt {on off : Tick} (h : off.toNat < on.toNat) (t : Tick) :
    (⟨on, off⟩ : Channel).asserted t = true ↔ on.toNat ≤ t.toNat ∨ t.toNat < off.toNat := by
  rw [asserted_iff]
  omega

theorem pwmOut_of_not_inited {s : State} (h : s.inited = false) (i : Fin 16) (t : Tick) (free : Bool) :
    s.pwmOut i t free = free := by
  rw [State.pwmOut, h, if_neg Bool.false_ne_true]

/-- Once the block is initialised an output shows its channel's window (10_state R35). -/
theorem pwmOut_of_ch {s : State} (h : s.inited = true) {i : Fin 16} {c : Channel} (hc : s.ch i = some c) (t : Tick)
    (free : Bool) : s.pwmOut i t free = c.asserted t := by
  rw [State.pwmOut, if_pos h, Option.some_inj.1 ((ch_val s i).symm.trans hc)]

/-- Settles O16: the output is the channel's window, in the three orders `on` and `off` can stand in. -/
theorem dutyWindowCases : Obligations.DutyWindowCases := by
  unfold Obligations.DutyWindowCases
  refine fun s i t free => ⟨fun h => pwmOut_of_not_inited h i t free, fun on off h hc => ?_⟩
  rw [pwmOut_of_ch h hc]
  refine ⟨fun hlt => asserted_of_lt hlt t, ?_, fun hgt => asserted_of_gt hgt t⟩
  rintro rfl
  exact asserted_of_eq on t

/-- Settles O17: SetValue(ch, 4095) writes the window [0, 4095), which leaves out the last phase. -/
theorem fullyOnMissesOneTick : Obligations.FullyOnMissesOneTick := by
  unfold Obligations.FullyOnMissesOneTick
  intro s i t free h
  have hi : i.val ≤ 15 := by omega
  have hc : (setValue i 4095 s).ch i = some ⟨0, 4095⟩ := by rw [setValue_eq, chWrite_ch hi, if_pos rfl]
  rw [pwmOut_of_ch (by rwa [setValue_eq, chWrite_inited]) hc, Bool.eq_iff_iff, asserted_of_lt (by decide), decide_eq_true_iff]
  have hzero : (0 : Tick).toNat = 0 := rfl
  have hlast : (4095 : Tick).toNat = 4095 := rfl
  omega

end Sys2Proof.Machine
end

-- The family 41_actuators: servos, LEDs and motors (41_actuators R111 to R121).
section
namespace Sys2Proof.Machine

/-! ### The servo tick -/

/-- The tick of a pulse width is strictly nearest: a tie would need `256*us + 625` to be even (41_actuators R120). -/
theorem servoTick_nearest {us : Nat} (h : us ≤ 2500) :
    2 * (us * 4096) < (2 * (servoTick us).toNat + 1) * 20000 ∧
    (2 * (servoTick us).toNat) * 20000 < 2 * (us * 4096) + 20000 := by
  obtain ⟨hlow, hhigh⟩ := servoTick_spec h
  omega

/-- Settles O20: each bound is that of the nearest integer, and two nearest integers stand in the order of the widths. -/
theorem servoTickMonotone : Obligations.ServoTickMonotone := by
  unfold Obligations.ServoTickMonotone
  intro us vs hlow hle hhigh
  obtain ⟨hus, hus'⟩ := servoTick_nearest (us := us) (by omega)
  obtain ⟨hvs, hvs'⟩ := servoTick_nearest hhigh
  refine ⟨?_, ?_, ?_, fun _ => ?_, fun _ => ?_, fun n => ?_⟩ <;> omega

/-! ### Commands of one channel write -/

theorem exec_srvang_ok {ch : Byte} {deg : Half} (hd : deg.toNat ≤ 180) (hch : ch.toNat ≤ 15) (s : State) :
    exec (.srvang ch deg) s =
      .next (respondOk (chWrite ch.toNat 0 (servoTick ((deg.toNat * 10 + 600 : Nat) : Int)) s.afterInit)) := by
  rw [exec_srvang, if_neg (by omega)]

theorem exec_srvpls_ok {ch : Byte} {us : Half} (hlow : 500 ≤ us.toNat) (hhigh : us.toNat ≤ 2500) (hch : ch.toNat ≤ 15)
    (s : State) :
    exec (.srvpls ch us) s = .next (respondOk (chWrite ch.toNat 0 (servoTick us.toNat) s.afterInit)) := by
  rw [exec_srvpls, if_neg (by omega)]

/-- Settles O18: one channel write of the nearest tick, or the IGNORED response. -/
theorem srvangSetsServoTick : Obligations.SrvangSetsServoTick := by
  unfold Obligations.SrvangSetsServoTick
  refine fun s ch deg => ⟨fun hd hch => ?_, fun hout => ?_⟩
  · obtain ⟨hlow, hhigh⟩ := servoTick_nearest (us := deg.toNat * 10 + 600) (by omega)
    exact ⟨_, _, exec_srvang_ok hd hch s, rfl, hlow, hhigh, chWrite_leaves hch _ _ s⟩
  · rw [exec_srvang, if_pos hout]
    rfl

/-- `SRVANG ch, d` equals `SRVPLS ch, 10*d + 600`, the status included (41_actuators R112). -/
theorem exec_srvang_eq_srvpls {deg us : Half} (hd : deg.toNat ≤ 180) (hus : us.toNat = 10 * deg.toNat + 600) (ch : Byte)
    (s : State) : exec (.srvang ch deg) s = exec (.srvpls ch us) s := by
  by_cases hch : ch.toNat ≤ 15
  · have width : us.toNat = deg.toNat * 10 + 600 := by omega
    rw [exec_srvang_ok hd hch, exec_srvpls_ok (by omega) (by omega) hch, width]
  · rw [exec_srvang, exec_srvpls, if_pos (by omega), if_pos (by omega)]

/-- Settles O19: as O18, with the equality of `exec_srvang_eq_srvpls`. -/
theorem srvplsSetsServoTick : Obligations.SrvplsSetsServoTick := by
  unfold Obligations.SrvplsSetsServoTick
  refine fun s ch us => ⟨fun hmin hmax hch => ?_, fun hout => ?_, fun deg hd hus => exec_srvang_eq_srvpls hd hus ch s⟩
  · obtain ⟨hlow, hhigh⟩ := servoTick_nearest hmax
    exact ⟨_, _, exec_srvpls_ok hmin hmax hch s, rfl, hlow, hhigh, chWrite_leaves hch _ _ s⟩
  · rw [exec_srvpls, if_pos hout]
    rfl

/-- Settles O21: one channel write, to a channel of 11..15, of the clamped level. -/
theorem setledScalesTheLevel : Obligations.SetledScalesTheLevel := by
  unfold Obligations.SetledScalesTheLevel
  refine fun s id level => ⟨fun hmin hmax => ?_, fun hout => ?_⟩
  · have inDomain : ¬ (id.toNat < 1 ∨ 5 < id.toNat) := by omega
    have hch : 10 + id.toNat ≤ 15 := by omega
    exact ⟨_, _, (exec_setled id level s).trans (congrArg _ (if_neg inDomain)), rfl, ledTick_toNat level.toInt,
      chWrite_leaves hch _ _ s⟩
  · rw [exec_setled, if_pos hout]
    rfl

/-! ### One motor -/

theorem motorOfId_eq_some {id : Byte} {m : Motor} (h : id.toNat = (match m with | .m1 => 1 | .m2 => 2)) :
    motorOfId id = some m := by
  cases m <;> simp only [motorOfId, zext8, h]

theorem motorOfId_eq_none {id : Byte} (h1 : id.toNat ≠ 1) (h2 : id.toNat ≠ 2) : motorOfId id = none := by
  simp only [motorOfId, zext8]

/-- Settles O22: the id names the motor that runs, or none. -/
theorem runmotSetsOneMotor : Obligations.RunmotSetsOneMotor := by
  unfold Obligations.RunmotSetsOneMotor
  refine fun s id speed => ⟨fun m hid => ?_, fun h1 h2 => ?_⟩
  · refine ⟨respondOk (run m speed.toInt s.afterInit), ?_, rfl, run_leaves m speed.toInt s⟩
    rw [exec_runmot, motorOfId_eq_some hid]
  · rw [exec_runmot, motorOfId_eq_none h1 h2]
    rfl

/-! ### Both motors -/

/-- Everything a command leaves whose own work is `Drive(dir, speed)`. -/
theorem drive_leaves (dir : Dir) (speed : Int) (s : State) :
    (s.cfg.wf = true →
      MotorRuns .m1 (driveSpeeds s.cfg.turnRightM1Fwd dir speed).1 (respondOk (driveBoth dir speed s.afterInit)) ∧
      MotorRuns .m2 (driveSpeeds s.cfg.turnRightM1Fwd dir speed).2 (respondOk (driveBoth dir speed s.afterInit))) ∧
    Emits (runEvents s.cfg .m1 (driveSpeeds s.cfg.turnRightM1Fwd dir speed).1 ++
        runEvents s.cfg .m2 (driveSpeeds s.cfg.turnRightM1Fwd dir speed).2)
      s.afterInit (respondOk (driveBoth dir speed s.afterInit)) ∧
    SameRegisters s.afterInit (respondOk (driveBoth dir speed s.afterInit)) ∧
    SameChannelsExcept (writtenByMotor s.cfg .m1 ++ writtenByMotor s.cfg .m2) s.afterInit
      (respondOk (driveBoth dir speed s.afterInit)) := by
  refine ⟨fun hc => ?_, emits_of_trace ?_, by constructor <;> simp, fun i hi => ?_⟩
  · obtain ⟨h1, h2⟩ := driveBoth_motorRuns (s := s.afterInit) (by rwa [afterInit_cfg]) dir speed
    rw [afterInit_cfg] at h1 h2
    exact ⟨motorRuns_congr h1 (respondOk_chs _) (respondOk_cfg _), motorRuns_congr h2 (respondOk_chs _) (respondOk_cfg _)⟩
  · rw [respondOk_trace, driveBoth_trace, afterInit_cfg]
  · obtain ⟨h1, h2⟩ := not_or.1 (mt List.mem_append.2 hi)
    rw [ch_congr (respondOk_chs _)]
    exact driveBoth_ch_other _ _ _ (by simpa using h1) (by simpa using h2)

/-- Settles O23: the two speeds are those of `driveSpeeds`, direction by direction. -/
theorem driveSetsBothMotors : Obligations.DriveSetsBothMotors := by
  unfold Obligations.DriveSetsBothMotors
  refine fun s speed => ⟨fun dir v1 v2 hv => ?_, fun code => exec_drive_outside code speed s⟩
  have speeds : driveSpeeds s.cfg.turnRightM1Fwd dir speed.toInt = (v1, v2) := by
    cases dir with
    | fwd | back | stop =>
      obtain ⟨rfl, rfl⟩ := hv
      rfl
    | left | right =>
      dsimp only at hv
      split at hv <;> next turn =>
        obtain ⟨rfl, rfl⟩ := hv
        simp [driveSpeeds, turn]
  have leaves := drive_leaves dir speed.toInt s
  rw [speeds] at leaves
  exact ⟨_, exec_drive dir speed s, rfl, leaves⟩

theorem driveSpeeds_stop (p : Bool) (v : Int) : driveSpeeds p .stop v = (0, 0) := rfl

/-- Both motors end stopped whatever they did before (41_actuators R117). -/
theorem driveBoth_stop_motorRuns {s : State} (hc : s.cfg.wf = true) (v : Int) :
    MotorRuns .m1 0 (driveBoth .stop v s) ∧ MotorRuns .m2 0 (driveBoth .stop v s) := by
  have runs := driveBoth_motorRuns hc .stop v
  rwa [driveSpeeds_stop] at runs

/-- Settles O24: the stop that ends the command is a `Drive` of its own, after the first one and the wait. -/
theorem driveforWaitsAndStops : Obligations.DriveforWaitsAndStops := by
  unfold Obligations.DriveforWaitsAndStops
  refine fun s speed seconds => ⟨fun dir => ?_, fun code => exec_drivefor_outside code speed seconds s⟩
  obtain ⟨-, emits, -, -⟩ := drive_leaves dir speed.toInt s
  refine ⟨_, _, _, exec_drivefor dir speed seconds s, exec_drive dir speed s, emits, rfl, rfl, fun hc => ?_,
    emits_of_trace ?_, by constructor <;> simp, fun i hi => ?_⟩
  · have hc' : (waitMs (seconds.toNat * 1000) (driveBoth dir speed.toInt s.afterInit)).cfg.wf = true := by simpa using hc
    obtain ⟨h1, h2⟩ := driveBoth_stop_motorRuns hc' 0
    exact ⟨motorRuns_congr h1 (respondOk_chs _) (respondOk_cfg _), motorRuns_congr h2 (respondOk_chs _) (respondOk_cfg _)⟩
  · have us : 1000 * (seconds.toNat * 1000) = seconds.toNat * 1000000 := by omega
    rw [respondOk_trace, driveBoth_trace, waitMs_trace, driveBoth_trace, waitMs_cfg, driveBoth_cfg, afterInit_cfg, us]
    simp [driveSpeeds_stop]
  · obtain ⟨h1, h2⟩ := not_or.1 (mt List.mem_append.2 hi)
    rw [ch_congr (respondOk_chs _), driveBoth_ch_other _ _ _ (by simpa using h1) (by simpa using h2),
      ch_congr (waitMs_chs _ _), driveBoth_ch_other _ _ _ (by simpa using h1) (by simpa using h2)]

/-- `STOPMOT BOTH` is `DRIVE STOP, v` for any `v`, its events included (41_actuators R119). -/
theorem exec_stopmot_both_eq_drive (v : Half) (s : State) :
    exec (.stopmot (.named .both)) s = exec (.drive (.named .stop) v) s := by
  rw [exec_stopmot_both, exec_drive, driveBoth_stop]

/-- Settles O25: one motor by `run_leaves`, both as the `Drive` that stops. -/
theorem stopmotStopsTheSelected : Obligations.StopmotStopsTheSelected := by
  unfold Obligations.StopmotStopsTheSelected
  refine fun s => ⟨fun m => ?_, ?_, fun code => exec_stopmot_outside code s, fun v => exec_stopmot_both_eq_drive v s⟩
  · cases m with
    | m1 => exact ⟨_, exec_stopmot_m1 s, rfl, run_leaves .m1 0 s⟩
    | m2 => exact ⟨_, exec_stopmot_m2 s, rfl, run_leaves .m2 0 s⟩
  · exact ⟨_, (exec_stopmot_both_eq_drive 0 s).trans (exec_drive .stop 0 s), rfl, drive_leaves .stop _ s⟩

/-! ### Mirrored directions -/

theorem driveSpeeds_fwd_neg (p : Bool) (v : Int) : driveSpeeds p .fwd (-v) = driveSpeeds p .back v := rfl

theorem driveSpeeds_left_neg (p : Bool) (v : Int) : driveSpeeds p .left (-v) = driveSpeeds p .right v := by
  cases p <;> simp [driveSpeeds]

/-- Settles O26: the two drives give the motors the same speeds. -/
theorem negatedSpeedMirrorsDirection : Obligations.NegatedSpeedMirrorsDirection := by
  unfold Obligations.NegatedSpeedMirrorsDirection
  intro s v w h
  simp only [exec_drive, driveBoth, h, driveSpeeds_fwd_neg, driveSpeeds_left_neg, and_self]

end Sys2Proof.Machine
end

-- The family 42_line_sensor: one read of the sensor link, its events, and the ten bits it discards (42_line_sensor R131 to R140).
section
namespace Sys2Proof.Machine

/-! ### The bits a read takes (42_line_sensor R134, R136) -/

/-- The next samples are the listed bits, in order (10_state R29). -/
theorem dinBit_of_listed {s : State} {n : Nat} {b : Bool} (h : s.din[n]? = some b) : dinBit s n = b := by
  rw [dinBit, h, Option.getD_some]

/-- A result port shows its sensor's raw reading unchanged (30_encoding R74). -/
theorem rawResult_toNat (s : State) (i : Fin 5) :
    (((rawReadings s 0).map resultOfReading).get i).toNat = sampleValue s (10 * (i.val + 1)) := by
  rw [Five.get_map, resultOfReading_toNat, rawReadings_get, rawValue, Nat.zero_add]

/-! ### The ten bits it discards (42_line_sensor R136) -/

/-- The readings are the values of five cycles that begin once the ten samples of cycle 0 are spent. -/
theorem rawReadings_of_discarded {s t : State} (hd : t.din = s.din.drop 10) (hn : t.dinCount = s.dinCount + 10) :
    rawReadings s 0 = .ofFn fun i => BitVec.ofNat 10 (sampleValue t (10 * i.val)) := by
  have cycleAfter (i : Fin 5) : rawValue s 0 i = sampleValue t (10 * i.val) := by
    rw [sampleValue_drop hd hn, rawValue, Nat.zero_add, Nat.mul_succ, Nat.add_comm]
  simp only [rawReadings, cycleAfter]

/-- Two lists of ten bits before the same rest give the same readings. -/
theorem rawReadings_append (s : State) {d e : List Bool} (rest : List Bool) (hd : d.length = 10) (he : e.length = 10) :
    rawReadings { s with din := d ++ rest } 0 = rawReadings { s with din := e ++ rest } 0 := by
  have discarded {f : List Bool} (hf : f.length = 10) :=
    rawReadings_of_discarded (s := { s with din := f ++ rest })
      (t := { s with din := rest, dinCount := s.dinCount + 10 }) (List.drop_left' hf).symm rfl
  exact (discarded hd).trans (discarded he).symm

/-! ### What a reading command's result depends on -/

/-- RDRAW, RDCAL and RDPOS answer and store a function of the readings, the calibration ranges and LAST_POS
(42_line_sensor R138, 44_position R169 to R171). -/
theorem exec_read_congr {s t : State} (hraw : rawReadings t 0 = rawReadings s 0) (hmin : t.calMin = s.calMin)
    (hmax : t.calMax = s.calMax) (hpos : t.lastPos = s.lastPos) {i : Instr}
    (hi : i ∈ [Instr.rdraw, Instr.rdcal, Instr.rdpos]) :
    ∃ t' s', exec i t = .next t' ∧ exec i s = .next s' ∧ t'.rsp = s'.rsp ∧ t'.lastPos = s'.lastPos := by
  have hnorm : normalisedRead t = normalisedRead s := by
    rw [normalisedRead, normalisedRead, hraw, normalise_congr hmin hmax]
  have hkept : (readSensors t.afterInit).2.lastPos = (readSensors s.afterInit).2.lastPos := by
    rw [readSensors_lastPos, readSensors_lastPos, afterInit_lastPos, afterInit_lastPos, hpos]
  simp only [List.mem_cons, List.not_mem_nil, or_false] at hi
  rcases hi with rfl | rfl | rfl
  · refine ⟨_, _, exec_rdraw t, exec_rdraw s, ?_, hkept⟩
    rw [hraw, respond_rsp, respond_rsp]
  · refine ⟨_, _, exec_rdcal t, exec_rdcal s, ?_, hkept⟩
    rw [hnorm, respond_rsp, respond_rsp]
  · refine ⟨_, _, exec_rdpos t, exec_rdpos s, ?_⟩
    rw [hnorm, hpos]
    split
    · exact ⟨rfl, rfl⟩
    · exact ⟨rfl, hkept⟩

/-! ### The obligations -/

/-- Settles O27: RDRAW answers the raw readings of one read after the initialisation. -/
theorem rdrawReturnsTheReadings : Obligations.RdrawReturnsTheReadings := by
  unfold Obligations.RdrawReturnsTheReadings
  refine fun s => ⟨_, _, exec_rdraw s, rfl, fun i => ⟨rawResult_toNat s i, ?_⟩, fun _ _ => dinBit_of_listed, ?_,
    readLeaves_respond _ _, emits_read rfl⟩
  · rw [rawResult_toNat]
    exact Nat.le_of_lt_succ (sampleValue_lt s _)
  · rw [respond_lastPos, readSensors_lastPos, afterInit_lastPos]

/-- Settles O28: the events are those of `readSensors_trace`, counted by the laws of `readEvents`. -/
theorem rdrawEventsInOrder : Obligations.RdrawEventsInOrder := by
  unfold Obligations.RdrawEventsInOrder
  exact fun s => ⟨_, exec_rdraw s, emits_read rfl, readEvents_length s 0, readEvents_samples s 0⟩

/-- Settles O29: the two states agree on everything `exec_read_congr` names, the readings by `rawReadings_append`. -/
theorem discardedBitsDoNotMatter : Obligations.DiscardedBitsDoNotMatter := by
  unfold Obligations.DiscardedBitsDoNotMatter
  intro s d e rest hd he i hi
  exact exec_read_congr (rawReadings_append s rest hd he) rfl rfl rfl hi

end Sys2Proof.Machine
end

-- The family 43_calibrator: CALIB, what it leaves, and the readings of its ranges (43_calibrator R150 to R158).
section
namespace Sys2Proof.Machine

/-! ### What the sweep and the stop leave of the channels -/

/-- The gate is no motor's channel (00_scope R7). -/
theorem gate_not_written {c : Config} (h : c.wf = true) (m : Motor) : c.gateCh.val ∉ writtenByMotor c m := by
  have gateFirst := (List.nodup_cons.1 (wf_channels h)).1
  simp only [List.mem_cons, List.not_mem_nil, or_false, not_or] at gateFirst
  cases m <;> simp only [writtenByMotor, motorChannels, List.mem_cons, List.not_mem_nil, or_false] <;> tauto

theorem sweep_cfg (s : State) (n : Nat) : (sweep s n).cfg = s.cfg := sweep_keeps State.cfg calIteration_cfg s n

/-- The motors end stopped (43_calibrator R155). -/
theorem calibrate_motorRuns {s : State} (h : s.cfg.wf = true) :
    MotorRuns .m1 0 (calibrate s) ∧ MotorRuns .m2 0 (calibrate s) :=
  driveBoth_stop_motorRuns (s := sweep s 100) (by rwa [sweep_cfg]) 0

/-- The stop does not touch the gate, which the last read left fully on (42_line_sensor R137). -/
theorem calibrate_gate {s : State} (h : s.cfg.wf = true) : (calibrate s).ch s.cfg.gateCh = some ⟨0, 4095⟩ := by
  have notWritten (m : Motor) : s.cfg.gateCh.val ∉ writtenByMotor (sweep s 100).cfg m := by
    rw [sweep_cfg]
    exact gate_not_written h m
  rw [calibrate_eq, driveBoth_ch_other _ _ _ (notWritten .m1) (notWritten .m2), sweep_gate]

/-- Channels other than the motors' and the gate are as they were. -/
theorem calibrate_ch_other (s : State) :
    SameChannelsExcept (writtenByMotor s.cfg .m1 ++ writtenByMotor s.cfg .m2 ++ [s.cfg.gateCh.val]) s (calibrate s) := by
  intro i hi
  simp only [List.mem_append, List.mem_singleton, not_or] at hi
  obtain ⟨⟨h1, h2⟩, hg⟩ := hi
  rw [calibrate_eq, driveBoth_ch_other _ _ _ (by rwa [sweep_cfg]) (by rwa [sweep_cfg]), sweep_ch_other s 100 h1 h2 hg]

/-- What CALIB leaves in the motors' channels and the gate's, its response included. -/
theorem calib_leaves_channels {s : State} (h : s.cfg.wf = true) :
    MotorRuns .m1 0 (respondOk (calibrate s.afterInit)) ∧ MotorRuns .m2 0 (respondOk (calibrate s.afterInit)) ∧
    (respondOk (calibrate s.afterInit)).ch s.cfg.gateCh = some ⟨0, 4095⟩ := by
  rw [← afterInit_cfg s] at h ⊢
  obtain ⟨h1, h2⟩ := calibrate_motorRuns h
  refine ⟨motorRuns_congr h1 (respondOk_chs _) (respondOk_cfg _), motorRuns_congr h2 (respondOk_chs _) (respondOk_cfg _), ?_⟩
  rw [ch_congr (respondOk_chs _), calibrate_gate h]

/-- Settles O32: CALIB is `calibrate` on `afterInit` and its response, and each of the three has a law for each register.
(They are rewritten one by one: joined by `simp`, the kernel would run the sweep.) -/
theorem calibMergesConservatively : Obligations.CalibMergesConservatively := by
  unfold Obligations.CalibMergesConservatively
  intro s
  refine ⟨_, exec_calib s, rfl, emits_of_trace ?events, calEvents_length s, fun i => ?ranges, calib_leaves_channels, ?registers⟩
  case events => rw [respondOk_trace, calibrate_trace, calEvents_afterInit]
  case ranges =>
    rw [respondOk_calMax, respondOk_calMin]
    exact calibrate_ranges s i
  case registers =>
    rw [respondOk_inited, calibrate_inited, afterInit_inited, respondOk_mode, calibrate_mode, respondOk_prescale,
      calibrate_prescale, respondOk_lastPos, calibrate_lastPos, afterInit_lastPos, respondOk_clkO, calibrate_clkO,
      respondOk_addrO, calibrate_addrO, respondOk_cmds, calibrate_cmds, afterInit_cmds, respondOk_rst, calibrate_rst,
      afterInit_rst, respondOk_din, calibrate_din, afterInit_din, respondOk_dinCount, calibrate_dinCount,
      afterInit_dinCount, respondOk_resetCount, calibrate_resetCount, afterInit_resetCount, respondOk_cfg, calibrate_cfg,
      afterInit_cfg]
    refine ⟨rfl, rfl, rfl, rfl, rfl, rfl, rfl, rfl, rfl, rfl, rfl, rfl, fun i hi => ?_⟩
    rw [← afterInit_cfg s] at hi
    rw [ch_congr (respondOk_chs _), calibrate_ch_other s.afterInit i hi]

/-! ### The ranges in closed form (43_calibrator R158) -/

/-- After at least one iteration the running maximum is some iteration's minimum: if none ever exceeded the start value 0,
all are 0. -/
theorem runningMax_attained (s : State) (i : Fin 5) {n : Nat} (hn : 0 < n) : ∃ k < n, runningMax s i n = itMinOf s i k := by
  obtain ⟨_, attained | ⟨hmax, hzero⟩⟩ := runningMax_spec s i n
  · exact attained
  · exact ⟨0, hn, hmax.trans (hzero 0 hn).symm⟩

/-- After at least one iteration the running minimum is some iteration's maximum: if none was ever below the start value 1023,
all are 1023. -/
theorem runningMin_attained (s : State) (i : Fin 5) {n : Nat} (hn : 0 < n) : ∃ k < n, runningMin s i n = itMaxOf s i k := by
  obtain ⟨_, attained | ⟨hmin, htop⟩⟩ := runningMin_spec s i n
  · exact attained
  · exact ⟨0, hn, hmin.trans (htop 0 hn).symm⟩

/-- Settles O33: the ranges are the running ranges after a hundred iterations, which bound every iteration and are attained. -/
theorem calibClosedForm : Obligations.CalibClosedForm := by
  unfold Obligations.CalibClosedForm
  refine fun s => ⟨_, exec_calib s, fun i => ?_⟩
  obtain ⟨hmax, hmin⟩ := calibrate_ranges s i
  rw [respondOk_calMax, respondOk_calMin, hmax, hmin]
  exact ⟨⟨(runningMax_spec s i 100).1, runningMax_attained s i (by decide)⟩,
    (runningMin_spec s i 100).1, runningMin_attained s i (by decide)⟩

/-- The five readings of an iteration being one value, both its extremes are that value. -/
theorem extremes_of_flat {s : State} {i : Fin 5} {k v : Nat} (h : ∀ j < 5, calReading s k j i = v) :
    itMinOf s i k = v ∧ itMaxOf s i k = v := by
  simp only [itMinOf, itMaxOf, h 0 (by decide), h 1 (by decide), h 2 (by decide), h 3 (by decide), h 4 (by decide), min_self,
    max_self, and_self]

/-- Settles O34: each bound is an extreme of some iteration, and every iteration's extremes are the one value. -/
theorem flatSensorGivesEqualBounds : Obligations.FlatSensorGivesEqualBounds := by
  unfold Obligations.FlatSensorGivesEqualBounds
  intro s i v flat
  obtain ⟨t, e, closed⟩ := calibClosedForm s
  obtain ⟨⟨_, k, hk, hmax⟩, _, l, hl, hmin⟩ := closed i
  obtain ⟨hv, _⟩ := extremes_of_flat (flat k hk)
  obtain ⟨_, hw⟩ := extremes_of_flat (flat l hl)
  exact ⟨t, e, hmax.trans hv, hmin.trans hw⟩

/-! ### GETMAX and GETMIN -/

/-- Five result ports show five bounds unchanged (30_encoding R74). -/
theorem boundResult_toNat (f : Five Reading) (i : Fin 5) : ((f.map resultOfReading).get i).toNat = (f.get i).toNat := by
  rw [Five.get_map, resultOfReading_toNat]

/-- Settles O30: GETMAX changes the response alone, and its ports show the maxima. -/
theorem getmaxReturnsTheMaxima : Obligations.GetmaxReturnsTheMaxima := by
  unfold Obligations.GetmaxReturnsTheMaxima
  exact fun s => ⟨_, exec_getmax s, boundResult_toNat s.calMax⟩

/-- Settles O31: GETMIN changes the response alone, and its ports show the minima. -/
theorem getminReturnsTheMinima : Obligations.GetminReturnsTheMinima := by
  unfold Obligations.GetminReturnsTheMinima
  exact fun s => ⟨_, exec_getmin s, boundResult_toNat s.calMin⟩

end Sys2Proof.Machine
end

-- The family 44_position: the normalised values of RDCAL, the position of RDPOS, and LAST_POS (44_position R166 to R175).
section
namespace Sys2Proof.Machine

/-! ### RDCAL -/

/-- A result port shows its sensor's normalised value unchanged: it lies in [0,1000] (44_position R167). -/
theorem normalisedResult_toNat (s : State) (i : Fin 5) :
    ((((normalisedRead s).map resultOfInt).get i).toNat : Int) = (normalisedRead s).get i := by
  obtain ⟨h0, h1⟩ := normalise_range s (rawReadings s 0) i
  rw [Five.get_map]
  exact resultOfInt_toNat h0 (h1.trans (by decide))

/-- Settles O35: each result is `normValue` of its raw reading, which meets `IsNorm`. -/
theorem rdcalReturnsNormalisedValues : Obligations.RdcalReturnsNormalisedValues := by
  unfold Obligations.RdcalReturnsNormalisedValues
  refine fun s => ⟨_, _, exec_rdcal s, rfl, fun i => ⟨(rawReadings s 0).get i, rawReadings_get s 0 i, ?_⟩, ?_,
    readLeaves_respond _ _, emits_read rfl⟩
  · rw [normalisedResult_toNat, normalisedRead, normalise_get]
    exact normValue_isNorm _ _ _
  · rw [respond_lastPos, readSensors_lastPos, afterInit_lastPos]

/-! ### RDPOS with the line detected -/

/-- Where RDPOS ends when some sensor detects the line (44_position R170, R172). -/
def detectedEnd (s : State) : State :=
  respond .ok ⟨resultOfInt (positionOf (normalisedRead s)), 0, 0, 0, 0⟩
    (setLastPos (positionOf (normalisedRead s)) (readSensors s.afterInit).2)

theorem exec_rdpos_of_detected {s : State} (h : detected (normalisedRead s) = true) :
    exec .rdpos s = .next (detectedEnd s) := by
  rw [exec_rdpos, if_pos h, detectedEnd]

/-- LAST_POS then holds the position exactly (44_position R173). -/
theorem detectedEnd_lastPos {s : State} (h : detected (normalisedRead s) = true) :
    ((detectedEnd s).lastPos.toNat : Int) = positionOf (normalisedRead s) := by
  obtain ⟨_, _, h0, h1⟩ := positionOf_spec h
  exact tickOfInt_toNat h0 (h1.trans (by decide))

/-- The result is the position of LAST_POS, in sixteen bits. -/
theorem detectedEnd_rsp {s : State} (h : detected (normalisedRead s) = true) :
    (detectedEnd s).rsp = some ⟨.ok, ⟨BitVec.ofNat 16 (detectedEnd s).lastPos.toNat, 0, 0, 0, 0⟩⟩ := by
  rw [← BitVec.ofInt_natCast, detectedEnd_lastPos h]
  rfl

/-- Settles O36: the stored position is the quotient `positionOf_spec` brackets, and the two sums are those of the model. -/
theorem rdposReturnsTheWeightedMean : Obligations.RdposReturnsTheWeightedMean := by
  unfold Obligations.RdposReturnsTheWeightedMean
  rintro s x rfl hx
  have hd := (detected_iff _).2 hx
  have hpos := plainSum_pos hd
  obtain ⟨hle, hlt, _, _⟩ := positionOf_spec hd
  obtain ⟨sum, hsum⟩ := Int.eq_ofNat_of_zero_le (a := plainSum (normalisedRead s)) (by omega)
  obtain ⟨wsum, hwsum⟩ := Int.eq_ofNat_of_zero_le (weightedSum_bounds (normalisedRead s)).1
  rw [hsum] at hpos
  rw [hsum, hwsum, ← detectedEnd_lastPos hd] at hle hlt
  exact ⟨detectedEnd s, (detectedEnd s).lastPos.toNat, sum, wsum, exec_rdpos_of_detected hd, hsum.symm.trans (plainSum_eq _),
    hwsum.symm.trans (weightedSum_eq _), by omega, by exact_mod_cast hle, by exact_mod_cast hlt, detectedEnd_rsp hd, by omega,
    rfl, readLeaves_setLastPos _ _ _, emits_read rfl⟩

/-! ### RDPOS with no line detected -/

/-- Where RDPOS ends when no sensor detects the line (44_position R171). -/
def undetectedEnd (s : State) : State :=
  respond .ok ⟨if s.lastPos.toNat < 2000 then 0 else 4000, 0, 0, 0, 0⟩ (readSensors s.afterInit).2

theorem exec_rdpos_of_undetected {s : State} (h : ¬ detected (normalisedRead s) = true) :
    exec .rdpos s = .next (undetectedEnd s) := by
  have extreme : resultOfInt (fallbackPosition s.lastPos) = if s.lastPos.toNat < 2000 then 0 else 4000 := by
    rw [fallbackPosition, apply_ite resultOfInt]
    rfl
  rw [exec_rdpos, if_neg h, extreme, undetectedEnd]

theorem undetectedEnd_lastPos (s : State) : (undetectedEnd s).lastPos = s.lastPos := by
  rw [undetectedEnd, respond_lastPos, readSensors_lastPos, afterInit_lastPos]

/-- Settles O37: the hypothesis says that no sensor detects the line. -/
theorem rdposFallsBackToAnExtreme : Obligations.RdposFallsBackToAnExtreme := by
  unfold Obligations.RdposFallsBackToAnExtreme
  rintro s x rfl hx
  have hd : ¬ detected (normalisedRead s) = true := by
    simp only [detected_iff, not_exists, not_lt]
    exact hx
  exact ⟨_, exec_rdpos_of_undetected hd, rfl, undetectedEnd_lastPos s, readLeaves_respond _ _, emits_read rfl⟩

/-! ### The bounds of the position (44_position R173) -/

theorem plainSum_eq_sum (x : Five Int) : plainSum x = ∑ i, contribution (x.get i) := by
  rw [Fin.sum_univ_five]
  rfl

theorem weightedSum_eq_sum (x : Five Int) : weightedSum x = ∑ i : Fin 5, contribution (x.get i) * (i.val * 1000 : Nat) := by
  rw [Fin.sum_univ_five]
  rfl

/-- The weighted mean of one contributor is its weight. -/
theorem positionOf_sole {x : Five Int} {i : Fin 5} (hi : 200 < 1000 - x.get i)
    (others : ∀ j, j ≠ i → 1000 - x.get j ≤ 50) : positionOf x = (i.val * 1000 : Nat) := by
  have silent (j : Fin 5) (hj : j ≠ i) : contribution (x.get j) = 0 := by
    rcases contribution_cases (x.get j) with ⟨h, _⟩ | ⟨_, h⟩
    · exact absurd (others j hj) (by omega)
    · exact h
  have own : contribution (x.get i) ≠ 0 := by
    rcases contribution_cases (x.get i) with ⟨_, h⟩ | ⟨h, _⟩ <;> omega
  have plain : plainSum x = contribution (x.get i) := by
    rw [plainSum_eq_sum]
    exact Fintype.sum_eq_single i silent
  have weighted : weightedSum x = contribution (x.get i) * (i.val * 1000 : Nat) := by
    rw [weightedSum_eq_sum]
    exact Fintype.sum_eq_single i fun j hj => by rw [silent j hj, zero_mul]
  rw [positionOf, plain, weighted, floorDiv]
  exact Int.mul_fdiv_cancel_left _ own

/-- Settles O38: a detected line's position is LAST_POS, which `lastPos_of_position` bounds; the other results are 0 and 4000. -/
theorem positionIsBounded : Obligations.PositionIsBounded := by
  unfold Obligations.PositionIsBounded
  constructor
  · intro s
    by_cases hd : detected (normalisedRead s) = true
    · have bound : (detectedEnd s).lastPos.toNat ≤ 4000 := lastPos_of_position hd
      refine ⟨_, _, exec_rdpos_of_detected hd, detectedEnd_rsp hd, ?_, fun _ => bound⟩
      rw [BitVec.toNat_ofNat]
      omega
    · refine ⟨_, _, exec_rdpos_of_undetected hd, rfl, ?_, ?_⟩
      · split <;> decide
      · rw [undetectedEnd_lastPos]
        exact id
  · rintro s x i rfl hi others
    have hd := (detected_iff _).2 ⟨i, hi⟩
    have weight := detectedEnd_lastPos hd
    rw [positionOf_sole hi others] at weight
    exact ⟨_, exec_rdpos_of_detected hd, by exact_mod_cast weight⟩

/-! ### The frame of LAST_POS (44_position R175) -/

/-- Settles O39: every command completes, and `exec_lastPos` lets RDPOS alone write LAST_POS. -/
theorem onlyRdposWritesLastPos : Obligations.OnlyRdposWritesLastPos := by
  unfold Obligations.OnlyRdposWritesLastPos
  intro i s hi
  obtain ⟨t, e⟩ := exec_completes i s
  exact ⟨t, e, (exec_lastPos e).resolve_right fun ⟨hr, _⟩ => hi hr⟩

end Sys2Proof.Machine
end

-- The family 60_exceptions: no step stops, idleness keeps the state, the parameters never change (60_exceptions R185 to R199).
section
namespace Sys2Proof.Machine

/-! ### A step always answers a next state (60_exceptions R185, R187) -/

/-- Settles O9: whatever reset does and whether or not a word is offered, the step is a reset, an idle cycle, or the run of a
word, cut short or not; and a word's run completes. -/
theorem noStepStops : Obligations.NoStepStops := by
  unfold Obligations.NoStepStops
  intro s
  cases hr : s.rst with
  | idle => exact ⟨_, step_idle hr⟩
  | during n =>
    cases hc : s.cmds with
    | nil => exact ⟨_, step_during_nil hr hc⟩
    | cons w rest =>
      obtain ⟨u, hu⟩ := runWord_completes w (accepted rest { s with rst := .low })
      exact ⟨_, step_during_cons hr hc hu⟩
  | low =>
    cases hc : s.cmds with
    | nil => exact ⟨_, step_low_nil hr hc⟩
    | cons w rest =>
      obtain ⟨t, ht⟩ := runWord_completes w (accepted rest s)
      exact ⟨t, (step_low_cons hr hc).trans ht⟩

/-! ### Idleness (60_exceptions R198) -/

/-- Settles O7: the step is `idleCycle`, which is the identity but for the response. -/
theorem idleStepKeepsTheState : Obligations.IdleStepKeepsTheState := by
  unfold Obligations.IdleStepKeepsTheState
  intro s hr hc
  rw [step_low_nil hr hc, idleCycle]

/-! ### The parameters (60_exceptions R199) -/

/-- A word, legal or not, leaves the parameters. -/
theorem runWord_cfg {w : Command} {s t : State} (h : runWord w s = .next t) : t.cfg = s.cfg := by
  rcases runWord_cases h with ⟨_, _, rfl⟩ | ⟨i, _, e⟩
  · exact respondIllegal_cfg s
  · exact exec_cfg e

/-- A reset in the life of a command keeps the parameters of the state that accepted it (70_reset_and_hazards R207). -/
@[simp] theorem abandonAt_cfg (n : Nat) (s t : State) : (abandonAt n s t).cfg = s.cfg := rfl

/-- Settles O44: the parameters outlive a reset, an idle cycle and, by `runWord_cfg`, a command. -/
theorem parametersNeverChange : Obligations.ParametersNeverChange := by
  unfold Obligations.ParametersNeverChange
  intro s t h
  rcases step_cases h with ⟨_, rfl⟩ | ⟨n, w, rest, u, _, _, _, rfl⟩ | ⟨_, _, rfl⟩ | ⟨w, rest, _, _, hw⟩
  · exact resetFrom_cfg s
  · rw [abandonAt_cfg, accepted_cfg]
  · exact idleCycle_cfg s
  · rw [runWord_cfg hw, accepted_cfg]

end Sys2Proof.Machine
end

-- The family 70_reset_and_hazards: a reset while idle and a reset in the life of a command (70_reset_and_hazards R205, R207).
section
namespace Sys2Proof.Machine

/-! ### A reset in the life of a command (70_reset_and_hazards R207) -/

/-- A step that runs the word offered, cut after `n` events by a reset: `es` are the events of the run that is not cut. -/
theorem step_during_of_trace {s u : State} {n : Nat} {w : Command} {rest : List Command} {es : List Event}
    (hr : s.rst = .during n) (hc : s.cmds = w :: rest) (hu : runWord w (accepted rest { s with rst := .low }) = .next u)
    (he : u.trace = es.reverse ++ s.trace) :
    step s = .next (resetFrom { accepted rest s with
      din := s.din.drop ((es.take n).countP isSample), dinCount := s.dinCount + (es.take n).countP isSample,
      trace := (es.take n).reverse ++ s.trace }) := by
  rw [step_during_cons hr hc hu, abandonAt_eq (s := accepted rest s) he]
  rfl

/-- Settles O47: the step with `rst` low is the word's run, whose events are what it puts in front of the trace; the reset
keeps the first `n` of them by `step_during_of_trace`, and its free values are the draws of `resetFrom`. -/
theorem resetAbandonsTheCommand : Obligations.ResetAbandonsTheCommand := by
  unfold Obligations.ResetAbandonsTheCommand
  intro s n w rest hr hc
  obtain ⟨u, hu⟩ := runWord_completes w (accepted rest { s with rst := .low })
  obtain ⟨es, he⟩ := runWord_trace hu
  have htrace : u.trace = es.reverse.reverse ++ s.trace := by rw [List.reverse_reverse]; exact he
  have hlow : step { s with rst := .low } = .next u := (step_low_cons (s := { s with rst := .low }) rfl hc).trans hu
  exact ⟨u, es.reverse, _, _, _, hlow, emits_of_trace htrace,
    step_during_of_trace hr hc hu htrace⟩

/-! ### A reset with no command under way (70_reset_and_hazards R205) -/

/-- Settles O46: in either form the step is `resetFrom`, which draws the channels, MODE and PRESCALE afresh. -/
theorem idleResetRestoresDefaults : Obligations.IdleResetRestoresDefaults := by
  unfold Obligations.IdleResetRestoresDefaults
  rintro s (hidle | ⟨n, hduring, hnone⟩)
  · exact ⟨_, _, _, step_idle hidle⟩
  · exact ⟨_, _, _, step_during_nil hduring hnone⟩

end Sys2Proof.Machine
end
